-- ==== Sys2Proof/Word.lean ====
section
/-! DEFINITION. The two word types of the hardware (00_scope.md R6, R7). -/

namespace Sys2Proof

/-- A `u8`: a register, a memory cell, a status byte (00_scope.md R7). -/
abbrev Byte := BitVec 8

/-- A `u16`: an address, the program counter, a little-endian word (00_scope.md R7). -/
abbrev Word := BitVec 16

end Sys2Proof
end

