-- ==== Sys2Proof/Config.lean ====
section
/-! DEFINITION. What the implementation fixes (00_scope.md R6): one OPEN parameter with no value of
its own, and the fixed addresses. The launch PC `PC0`, the other OPEN parameter, is an argument of
`State.launch` (Machine/HostPort.lean). -/

namespace Sys2Proof.Config

/-- `ZP_PTR_WRAP` (40_addressing.md R65): does the high byte of a zero-page pointer at 0xFF come from
0x0000 (`true`) or from 0x0100 (`false`)? OPEN in the spec, so it has no value here either, and
whatever is proved holds for both. DESIGN CHOICE, safe: log entry 1. -/
opaque zpPtrWrap : Bool

/-- The page of the stack, 0x0100 to 0x01FF (10_state.md R18). -/
def stackPage : Byte := 0x01#8

/-- `BRK_VECTOR` (00_scope.md R6; 47_interrupt.md R125). -/
def brkVector : Word := 0xFFFE#16

/-- The reset vector a host may load PC from; the core never reads it
(70_reset_and_hazards.md R148). -/
def resetVector : Word := 0xFFFC#16

end Sys2Proof.Config
end

