-- ==== Sys2Proof/Machine/Bits.lean ====
section
/-! DEFINITION. Bit fields, byte order and extension (00_scope.md R7). -/

namespace Sys2Proof.Machine

/-- `hi : lo`, the u16 `hi * 256 + lo` (00_scope.md R7). -/
def word (hi lo : Byte) : Word := hi ++ lo

/-- `v[7:0]`. -/
def lowByte (v : Word) : Byte := v.extractLsb' 0 8

/-- `v[15:8]`. -/
def highByte (v : Word) : Byte := v.extractLsb' 8 8

/-- `zext_16` (00_scope.md R7). -/
def zext16 (v : Byte) : Word := v.setWidth 16

/-- `sext_16`: `v` when bit 7 is 0, `v + 0xFF00` when it is 1 (00_scope.md R7). -/
def sext16 (v : Byte) : Word := v.signExtend 16

/-- Byte `k` of a table word: bits `8k+7 .. 8k`, the first byte being the least significant. -/
def byteOfTableWord (w k : Nat) : Byte := BitVec.ofNat 8 (w / 2 ^ (8 * k))

end Sys2Proof.Machine
end

