-- ==== Sys2Proof/Syntax.lean ====
section
/-! DEFINITION. The instructions as syntax: an operation of the opcode table with the operand form and
the operand bytes its addressing mode consumes (30_encoding.md R46, R47, R51). One constructor for each
of the table's 57 mnemonics; a mnemonic's rows are the operand forms of its constructor (log entry 7).
Which forms a mnemonic has is checked in WellFormed.lean. -/

namespace Sys2Proof

/-- The twelve addressing modes (40_addressing.md R55 to R67). -/
inductive Mode where
  | implied
  | immediate
  | zeroPage
  | zeroPageX
  | zeroPageY
  | relative
  | absolute
  | absoluteX
  | absoluteY
  | indirect
  | indexedIndirectX
  | indirectIndexedY
  deriving DecidableEq, Repr

/-- The eight modes whose `ea` addresses a data byte in memory, with the operand bytes they consume
(40_addressing.md R58 to R63, R66, R67). -/
inductive MemOperand where
  | zeroPage (base : Byte)
  | zeroPageX (base : Byte)
  | zeroPageY (base : Byte)
  | absolute (base : Word)
  | absoluteX (base : Word)
  | absoluteY (base : Word)
  | indexedIndirectX (base : Byte)
  | indirectIndexedY (pointer : Byte)
  deriving DecidableEq, Repr

/-- A source operand: the byte after the opcode (40_addressing.md R56) or a byte of memory. -/
inductive Source where
  | immediate (value : Byte)
  | memory (operand : MemOperand)
  deriving DecidableEq, Repr

/-- The operand of a shift or rotate: A in the Implied mode, or a byte of memory
(42_shift_rotate.md R76). -/
inductive ShiftOperand where
  | accumulator
  | memory (operand : MemOperand)
  deriving DecidableEq, Repr

/-- The operand of JMP: the operand word itself, or the word at that pointer (44_branch_jump.md R102). -/
inductive JumpOperand where
  | absolute (target : Word)
  | indirect (pointer : Word)
  deriving DecidableEq, Repr

/-- One constructor per mnemonic of spec/opcode_table.json, in the order of the spec's instruction
files 41 to 49. `undocumented` is the table's NOP*: the no-op placeholder of the 105 undocumented
opcode bytes (49_nop.md R134). -/
inductive Instr where
  -- 41_arith_logical.md
  | adc (src : Source)
  | sbc (src : Source)
  | and (src : Source)
  | ora (src : Source)
  | eor (src : Source)
  | bit (operand : MemOperand)
  -- 42_shift_rotate.md
  | asl (operand : ShiftOperand)
  | lsr (operand : ShiftOperand)
  | rol (operand : ShiftOperand)
  | ror (operand : ShiftOperand)
  -- 43_compare_incdec.md
  | cmp (src : Source)
  | cpx (src : Source)
  | cpy (src : Source)
  | inc (operand : MemOperand)
  | dec (operand : MemOperand)
  | inx
  | iny
  | dex
  | dey
  -- 44_branch_jump.md
  | bpl (disp : Byte)
  | bmi (disp : Byte)
  | bvc (disp : Byte)
  | bvs (disp : Byte)
  | bcc (disp : Byte)
  | bcs (disp : Byte)
  | bne (disp : Byte)
  | beq (disp : Byte)
  | jmp (operand : JumpOperand)
  | jsr (target : Word)
  | rts
  -- 45_stack.md
  | pha
  | pla
  | php
  | plp
  -- 46_flags_transfer.md
  | clc
  | sec
  | cli
  | sei
  | cld
  | sed
  | clv
  | tax
  | tay
  | txa
  | tya
  | tsx
  | txs
  -- 47_interrupt.md
  | brk
  | rti
  -- 48_load_store.md
  | lda (src : Source)
  | ldx (src : Source)
  | ldy (src : Source)
  | sta (operand : MemOperand)
  | stx (operand : MemOperand)
  | sty (operand : MemOperand)
  -- 49_nop.md
  | nop
  | undocumented (opcode : Byte)
  deriving DecidableEq, Repr

/-- The addressing mode of a memory operand. -/
def MemOperand.mode : MemOperand → Mode
  | .zeroPage _ => .zeroPage
  | .zeroPageX _ => .zeroPageX
  | .zeroPageY _ => .zeroPageY
  | .absolute _ => .absolute
  | .absoluteX _ => .absoluteX
  | .absoluteY _ => .absoluteY
  | .indexedIndirectX _ => .indexedIndirectX
  | .indirectIndexedY _ => .indirectIndexedY

/-- The addressing mode of a source operand. -/
def Source.mode : Source → Mode
  | .immediate _ => .immediate
  | .memory m => m.mode

/-- The addressing mode of a shift operand: "the accumulator when the addressing mode is Implied". -/
def ShiftOperand.mode : ShiftOperand → Mode
  | .accumulator => .implied
  | .memory m => m.mode

/-- The addressing mode of a jump operand. -/
def JumpOperand.mode : JumpOperand → Mode
  | .absolute _ => .absolute
  | .indirect _ => .indirect

/-- The addressing mode the opcode table pairs with an instruction (30_encoding.md R51, R52). -/
def Instr.mode : Instr → Mode
  | .adc src | .sbc src | .and src | .ora src | .eor src => src.mode
  | .cmp src | .cpx src | .cpy src => src.mode
  | .lda src | .ldx src | .ldy src => src.mode
  | .bit m | .inc m | .dec m | .sta m | .stx m | .sty m => m.mode
  | .asl t | .lsr t | .rol t | .ror t => t.mode
  | .bpl _ | .bmi _ | .bvc _ | .bvs _ | .bcc _ | .bcs _ | .bne _ | .beq _ => .relative
  | .jmp t => t.mode
  | .jsr _ => .absolute
  | .inx | .iny | .dex | .dey | .rts | .pha | .pla | .php | .plp => .implied
  | .clc | .sec | .cli | .sei | .cld | .sed | .clv => .implied
  | .tax | .tay | .txa | .tya | .tsx | .txs => .implied
  | .brk | .rti | .nop | .undocumented _ => .implied

end Sys2Proof
end

