-- ==== Sys2Proof/Machine/State.lean ====
section
/-! DEFINITION. The machine state, "exactly: the registers of rule R9, the flags of rule R12 and the
memory of 20_memory.md rule R24" (10_state.md R20), its value at reset, and the reasons a step can stop. -/

namespace Sys2Proof.Machine

/-- Memory as plain data: (address, byte) pairs in one canonical form, addresses rising and no byte
listed that an unlisted address would read as (`Memory.wf`, Machine/Ops.lean; log entry 6). -/
abbrev Memory := List Host.Cell

/-- The eight status flags, each a state element of its own (10_state.md R12), in the order of the
packed byte, bit 7 first (R14). -/
structure Flags where
  /-- Negative. -/
  n : Bool
  /-- Overflow. -/
  v : Bool
  /-- Unused: stored, and forced to 1 in every pushed status byte. -/
  u : Bool
  /-- Break. -/
  b : Bool
  /-- Decimal: "retained but unused by arithmetic". -/
  d : Bool
  /-- Interrupt-disable: stored, pushed and pulled; it masks nothing. -/
  i : Bool
  /-- Zero. -/
  z : Bool
  /-- Carry. -/
  c : Bool
  deriving DecidableEq, Repr

/-- The machine state (10_state.md R9, R12, R20; 20_memory.md R24). -/
structure State where
  /-- A, the accumulator. -/
  a : Byte
  /-- X, an index register. -/
  x : Byte
  /-- Y, an index register. -/
  y : Byte
  /-- SP, an index into the stack page. -/
  sp : Byte
  /-- PC; between instructions, the address of the next opcode byte (10_state.md R11). -/
  pc : Word
  /-- The eight status flags. -/
  flags : Flags
  /-- The 65,536 bytes of memory. -/
  mem : Memory
  deriving DecidableEq, Repr

/-- The state after construction, the only reset (10_state.md R23; 70_reset_and_hazards.md R147):
every register, flag and memory byte 0. The launch PC is the host's to set (log entry 2). -/
def State.reset : State where
  a := 0x00#8
  x := 0x00#8
  y := 0x00#8
  sp := 0x00#8
  pc := 0x0000#16
  flags :=
    { n := false, v := false, u := false, b := false, d := false, i := false, z := false, c := false }
  mem := []

/-- The faults of the hardware: none. "It never faults, never blocks and never stops the machine"
(30_encoding.md R49; 60_exceptions.md R135). No constructor, so nobody raises one: log entry 10. -/
inductive Fault
  deriving DecidableEq, Repr

/-- The reasons an instruction is refused. -/
inductive Refusal where
  /-- An arm of `exec` that has no meaning yet. Every arm has one, so nobody raises it (safe). -/
  | notModelled (mnemonic : String)
  deriving DecidableEq, Repr

end Sys2Proof.Machine
end

