-- ==== Sys2Proof/Machine/Flags.lean ====
section
/-! DEFINITION. The packed status byte and every flag computation of the spec: Z and N of a result,
the add and subtract of 41_arith_logical.md, the compare of 43_compare_incdec.md, BIT, and the shifts of
42_shift_rotate.md. -/

namespace Sys2Proof.Machine

/-- A flag as bit `k` of a byte. -/
def flagBit (f : Bool) (k : Nat) : Byte := (if f then 1#8 else 0#8) <<< k

/-- `Pack()`: `N<<7 | V<<6 | U<<5 | B<<4 | D<<3 | I<<2 | Z<<1 | C` (10_state.md R14). -/
def Flags.pack (f : Flags) : Byte :=
  flagBit f.n 7 ||| flagBit f.v 6 ||| flagBit f.u 5 ||| flagBit f.b 4 |||
    flagBit f.d 3 ||| flagBit f.i 2 ||| flagBit f.z 1 ||| flagBit f.c 0

/-- `Unpack(v)` (10_state.md R15). -/
def Flags.unpack (v : Byte) : Flags where
  n := v.getLsbD 7
  v := v.getLsbD 6
  u := v.getLsbD 5
  b := v.getLsbD 4
  d := v.getLsbD 3
  i := v.getLsbD 2
  z := v.getLsbD 1
  c := v.getLsbD 0

/-- The status byte PHP and BRK push: `Pack() | 0x30` (10_state.md R14). -/
def Flags.pushed (f : Flags) : Byte := f.pack ||| 0x30#8

/-- `SetZN(r)`: `Z <- (r == 0 ? 1 : 0); N <- r[7]` (30_encoding.md R50). -/
def Flags.setZN (f : Flags) (r : Byte) : Flags := { f with z := r == 0#8, n := r.getLsbD 7 }

/-- ADC's `t <- A + m + C`, an exact integer, 0 to 511 (41_arith_logical.md R70). -/
def addExact (a m : Byte) (c : Bool) : Nat := a.toNat + m.toNat + c.toNat

/-- ADC's `r <- t mod 256` (41_arith_logical.md R70). -/
def addResult (a m : Byte) (c : Bool) : Byte := BitVec.ofNat 8 (addExact a m c)

/-- ADC's `(t > 0xFF)` (41_arith_logical.md R70). -/
def addCarry (a m : Byte) (c : Bool) : Bool := decide (addExact a m c > 0xFF)

/-- ADC's `((~(A ^ m) & (A ^ r)) & 0x80) != 0` (41_arith_logical.md R70). -/
def addOverflow (a m r : Byte) : Bool := (~~~(a ^^^ m) &&& (a ^^^ r) &&& 0x80#8) != 0#8

/-- The flags after ADC of `m` to `a`: N, V, Z and C (41_arith_logical.md R70). -/
def Flags.afterAdd (f : Flags) (a m : Byte) : Flags :=
  { f with v := addOverflow a m (addResult a m f.c), c := addCarry a m f.c }.setZN
    (addResult a m f.c)

/-- The flags after `Compare(reg, m)`: C, Z and N (43_compare_incdec.md R82). -/
def Flags.afterCompare (f : Flags) (reg m : Byte) : Flags :=
  { f with c := decide (reg.toNat ≥ m.toNat) }.setZN (reg - m)

/-- The flags after BIT: Z, N and V (41_arith_logical.md R75). -/
def Flags.afterBit (f : Flags) (a m : Byte) : Flags :=
  { f with z := (a &&& m) == 0#8, n := m.getLsbD 7, v := m.getLsbD 6 }

/-- The flags after a shift that moves `out` into C and leaves the result `r`: C, Z and N
(42_shift_rotate.md R77). -/
def Flags.afterShift (f : Flags) (out : Bool) (r : Byte) : Flags := { f with c := out }.setZN r

/-- ASL's `(v << 1) mod 256` (42_shift_rotate.md R78). -/
def aslResult (v : Byte) : Byte := v <<< 1

/-- LSR's `v >> 1` (42_shift_rotate.md R79). -/
def lsrResult (v : Byte) : Byte := v >>> 1

/-- ROL's `((v << 1) mod 256) | c0` (42_shift_rotate.md R80). -/
def rolResult (v : Byte) (c : Bool) : Byte := v <<< 1 ||| flagBit c 0

/-- ROR's `(v >> 1) | (c0 << 7)` (42_shift_rotate.md R81). -/
def rorResult (v : Byte) (c : Bool) : Byte := v >>> 1 ||| flagBit c 7

end Sys2Proof.Machine
end

