-- ==== Sys2Proof/Machine/Ops.lean ====
section
/-! DEFINITION. The named operations over memory and registers: memory and its canonical form, register
writes, word access, the stack, the program loader, and taking a trap and returning from one. -/

namespace Sys2Proof.Machine

/-! ## Memory (20_memory.md) -/

/-- What an address that is not listed reads as: "0 if never written" (20_memory.md R30; memory is
zero-filled at reset, 10_state.md R23). -/
def Memory.unlisted : Byte := 0x00#8

/-- The byte at an address (20_memory.md R26). -/
def Memory.read : Memory → Nat → Byte
  | [], _ => Memory.unlisted
  | cell :: rest, addr => if cell.1 = addr then cell.2 else Memory.read rest addr

/-- The memory with no entry for `addr`. -/
def Memory.unlist : Memory → Nat → Memory
  | [], _ => []
  | cell :: rest, addr =>
    if cell.1 = addr then Memory.unlist rest addr else cell :: Memory.unlist rest addr

/-- The memory with one more entry, at its place in the order. -/
def Memory.list : Memory → Host.Cell → Memory
  | [], new => [new]
  | cell :: rest, new =>
    if new.1 < cell.1 then new :: cell :: rest else cell :: Memory.list rest new

/-- The memory with `v` at `addr` (20_memory.md R27), in canonical form again: a byte that an unlisted
address reads as is not listed. -/
def Memory.write (m : Memory) (addr : Nat) (v : Byte) : Memory :=
  if v = Memory.unlisted then m.unlist addr else (m.unlist addr).list (addr, v)

/-- Every listed address is at least `low` and in the address space, addresses rise strictly, and no
listed byte is what an unlisted address reads as. -/
def Memory.wfFrom : Nat → Memory → Bool
  | _, [] => true
  | low, cell :: rest =>
    decide (low ≤ cell.1) && decide (cell.1 < 65536) && decide (cell.2 ≠ Memory.unlisted) &&
      Memory.wfFrom (cell.1 + 1) rest

/-- The canonical form of memory (20_memory.md R24: 65,536 cells, 0x0000 to 0xFFFF; log entry 6). -/
def Memory.wf (m : Memory) : Bool := m.wfFrom 0

/-! ## Registers -/

/-- `A <- v`. -/
def State.setA (s : State) (v : Byte) : State := { s with a := v }

/-- `X <- v`. -/
def State.setX (s : State) (v : Byte) : State := { s with x := v }

/-- `Y <- v`. -/
def State.setY (s : State) (v : Byte) : State := { s with y := v }

/-- `SP <- v`. -/
def State.setSp (s : State) (v : Byte) : State := { s with sp := v }

/-- `PC <- v`. -/
def State.setPc (s : State) (v : Word) : State := { s with pc := v }

/-- All eight flags at once. -/
def State.setFlags (s : State) (f : Flags) : State := { s with flags := f }

/-- The memory component. -/
def State.setMem (s : State) (m : Memory) : State := { s with mem := m }

/-- `SetZN(r)` on the state's flags (30_encoding.md R50). -/
def State.setZN (s : State) (r : Byte) : State := s.setFlags (s.flags.setZN r)

/-- PC moves past `n` bytes, modulo 65536 (10_state.md R11). -/
def State.advance (s : State) (n : Nat) : State := s.setPc (s.pc + BitVec.ofNat 16 n)

/-! ## Memory accesses of the state (20_memory.md R26 to R29) -/

/-- `MemRead(addr, 1)`. -/
def State.readByte (s : State) (addr : Word) : Byte := s.mem.read addr.toNat

/-- `MemWrite(addr, 1, v)`. -/
def State.writeByte (s : State) (addr : Word) (v : Byte) : State :=
  s.setMem (s.mem.write addr.toNat v)

/-- `MemRead(addr, 2)`: little-endian, the high byte's address modulo 65536. -/
def State.readWord (s : State) (addr : Word) : Word :=
  word (s.readByte (addr + 1#16)) (s.readByte addr)

/-- `MemWrite(addr, 2, v)`: the low byte, then the high byte. -/
def State.writeWord (s : State) (addr v : Word) : State :=
  (s.writeByte addr (lowByte v)).writeByte (addr + 1#16) (highByte v)

/-- `load_program(bytes, base)`: the bytes in order, addresses modulo 65536 (20_memory.md R31). -/
def State.loadProgram : State → List Byte → Word → State
  | s, [], _ => s
  | s, v :: rest, base => (s.writeByte base v).loadProgram rest (base + 1#16)

/-! ## The stack (20_memory.md R32, R33) -/

/-- The byte SP names: `0x0100 + SP` (10_state.md R18). -/
def State.stackAddr (s : State) : Word := word Config.stackPage s.sp

/-- `Push(v)`: write, then decrement SP modulo 256. -/
def State.push (s : State) (v : Byte) : State :=
  (s.writeByte s.stackAddr v).setSp (s.sp - 1#8)

/-- What `Pull()` leaves: SP incremented modulo 256, memory as it was. -/
def State.pulled (s : State) : State := s.setSp (s.sp + 1#8)

/-- What `Pull()` returns: the byte the incremented SP names. -/
def State.pullValue (s : State) : Byte := s.pulled.readByte s.pulled.stackAddr

/-- A return address pushed high byte first (44_branch_jump.md R103; 47_interrupt.md R125). -/
def State.pushWord (s : State) (v : Word) : State := (s.push (highByte v)).push (lowByte v)

/-- What pulling a return address leaves: two pulls. -/
def State.pulledWord (s : State) : State := s.pulled.pulled

/-- The return address two pulls return, low byte first (44_branch_jump.md R104; 47_interrupt.md R126). -/
def State.pullWordValue (s : State) : Word := word s.pulled.pullValue s.pullValue

/-! ## The trap (47_interrupt.md R125, R126; 60_exceptions.md R136, R139) -/

/-- Taking the trap through a vector, with `ret` the return address: push it, set I, push the status
byte with B and U set, clear B, and go to the address the vector holds. -/
def State.takeTrap (s : State) (ret vector : Word) : State :=
  let pushedPc := s.pushWord ret
  let masked := pushedPc.setFlags { pushedPc.flags with i := true }
  let saved := masked.push masked.flags.pushed
  let entered := saved.setFlags { saved.flags with b := false }
  entered.setPc (entered.readWord vector)

/-- Returning from the trap: pull the flags, clear B and U, pull PC (no +1). -/
def State.returnFromTrap (s : State) : State :=
  let restored := s.pulled.setFlags { Flags.unpack s.pullValue with b := false, u := false }
  restored.pulledWord.setPc restored.pullWordValue

end Sys2Proof.Machine
end

