-- ==== Sys2Proof/Machine/Operands.lean ====
section
/-! DEFINITION. The addressing-mode resolver (40_addressing.md): for each operand form the bytes its mode
consumes, its effective address, and the operand it names. The operand bytes themselves were read
with the instruction (log entry 3). -/

namespace Sys2Proof.Machine

/-- `ZpPtr(q)` for a given `ZP_PTR_WRAP` (40_addressing.md R65). The two readings agree for every `q`
other than 0xFF, so the parameter is consulted for 0xFF only. -/
def zpPtrFor (wrap : Bool) (q : Byte) (s : State) : Word :=
  word
    (s.readByte (if q = 0xFF#8 then (if wrap then 0x0000#16 else 0x0100#16) else zext16 q + 1#16))
    (s.readByte (zext16 q))

/-- `ZpPtr(q)`: the little-endian pointer at a zero-page location (40_addressing.md R65). -/
def zpPtr (q : Byte) (s : State) : Word := zpPtrFor Config.zpPtrWrap q s

/-- `ea` of a memory operand. -/
def effectiveAddr (m : MemOperand) (s : State) : Word :=
  match m with
  | .zeroPage base => zext16 base                       -- R58
  | .zeroPageX base => zext16 (base + s.x)              -- R59: modulo 256
  | .zeroPageY base => zext16 (base + s.y)              -- R60: modulo 256
  | .absolute base => base                              -- R61
  | .absoluteX base => base + zext16 s.x                -- R62: modulo 65536
  | .absoluteY base => base + zext16 s.y                -- R63: modulo 65536
  | .indexedIndirectX base => zpPtr (base + s.x) s      -- R66
  | .indirectIndexedY pointer => zpPtr pointer s + zext16 s.y  -- R67

/-- The bytes a memory mode consumes after the opcode (40_addressing.md R58 to R63, R66, R67). -/
def memSize (m : MemOperand) : Nat :=
  match m with
  | .zeroPage _ | .zeroPageX _ | .zeroPageY _ => 1
  | .indexedIndirectX _ | .indirectIndexedY _ => 1
  | .absolute _ | .absoluteX _ | .absoluteY _ => 2

/-- The byte at the effective address, `MemRead(ea, 1)` (00_scope.md R8). -/
def memValue (m : MemOperand) (s : State) : Byte := s.readByte (effectiveAddr m s)

/-- `Operand()` of a source operand: "the next program byte" (40_addressing.md R56) or `MemRead(ea, 1)`
(00_scope.md R8). -/
def sourceValue (src : Source) (s : State) : Byte :=
  match src with
  | .immediate v => v
  | .memory m => memValue m s

/-- The bytes a source operand's mode consumes. -/
def sourceSize (src : Source) : Nat :=
  match src with
  | .immediate _ => 1
  | .memory m => memSize m

/-- `Operand()` of a shift: A in the Implied mode (40_addressing.md R55; 00_scope.md R8). -/
def shiftValue (t : ShiftOperand) (s : State) : Byte :=
  match t with
  | .accumulator => s.a
  | .memory m => memValue m s

/-- The bytes a shift operand's mode consumes. -/
def shiftSize (t : ShiftOperand) : Nat :=
  match t with
  | .accumulator => 0
  | .memory m => memSize m

/-- `WriteBack(r)`: A in the Implied mode, the byte at `ea` otherwise (42_shift_rotate.md R76). -/
def writeBack (t : ShiftOperand) (r : Byte) (s : State) : State :=
  match t with
  | .accumulator => s.setA r
  | .memory m => s.writeByte (effectiveAddr m s) r

/-- The word at a pointer of the Indirect mode: the high byte's address wraps within the pointer's own
page (40_addressing.md R64). -/
def indirectTarget (p : Word) (s : State) : Word :=
  word (s.readByte (word (highByte p) (lowByte p + 1#8))) (s.readByte p)

/-- `ea` of JMP (44_branch_jump.md R102). -/
def jumpTarget (t : JumpOperand) (s : State) : Word :=
  match t with
  | .absolute target => target
  | .indirect pointer => indirectTarget pointer s

/-- `Branch(cond)` after the Relative mode, which has moved PC past the displacement byte
(44_branch_jump.md R93; 40_addressing.md R57). -/
def branch (cond : Bool) (disp : Byte) (s : State) : State :=
  if cond then s.setPc (s.pc + sext16 disp) else s

end Sys2Proof.Machine
end

