-- ==== Sys2Proof/Machine/Arith.lean ====
section
/-! DEFINITION. Arithmetic and logical instructions (41_arith_logical.md): ADC SBC AND ORA EOR BIT. A
meaning takes the state with PC at the opcode; its first act is to move PC past the instruction
(30_encoding.md R49; log entry 5). -/

namespace Sys2Proof.Machine

/-- The body of ADC on the operand `m` (R70), and of SBC on the one's complement of its operand (R71). -/
def addToA (m : Byte) (s : State) : State :=
  (s.setA (addResult s.a m s.flags.c)).setFlags (s.flags.afterAdd s.a m)

/-- `A <- r; SetZN(r)` (R72, R73, R74). -/
def resultToA (r : Byte) (s : State) : State := (s.setA r).setZN r

/-- ADC: R70. D is not read (R69). -/
def execAdc (src : Source) (s : State) : Host.Outcome State Fault Refusal :=
  .next (addToA (sourceValue src s) (s.advance (1 + sourceSize src)))

/-- SBC: R71, an add of `~m`. D is not read (R69). -/
def execSbc (src : Source) (s : State) : Host.Outcome State Fault Refusal :=
  .next (addToA (~~~ sourceValue src s) (s.advance (1 + sourceSize src)))

/-- AND: R72. -/
def execAnd (src : Source) (s : State) : Host.Outcome State Fault Refusal :=
  .next (resultToA (s.a &&& sourceValue src s) (s.advance (1 + sourceSize src)))

/-- ORA: R73. -/
def execOra (src : Source) (s : State) : Host.Outcome State Fault Refusal :=
  .next (resultToA (s.a ||| sourceValue src s) (s.advance (1 + sourceSize src)))

/-- EOR: R74. -/
def execEor (src : Source) (s : State) : Host.Outcome State Fault Refusal :=
  .next (resultToA (s.a ^^^ sourceValue src s) (s.advance (1 + sourceSize src)))

/-- BIT: R75. A and memory are unchanged. -/
def execBit (m : MemOperand) (s : State) : Host.Outcome State Fault Refusal :=
  .next ((s.advance (1 + memSize m)).setFlags (s.flags.afterBit s.a (memValue m s)))

end Sys2Proof.Machine
end

