-- ==== Sys2Proof/Machine/Compare.lean ====
section
/-! DEFINITION. Compares, increments and decrements (43_compare_incdec.md): CMP CPX CPY INC DEC INX INY
DEX DEY. -/

namespace Sys2Proof.Machine

/-- `Compare(reg, m)` (R82): no register and no memory byte is written. -/
def compare (reg m : Byte) (s : State) : State := s.setFlags (s.flags.afterCompare reg m)

/-- `MemWrite(ea, 1, r); SetZN(r)`, and PC past the instruction (R87, R88). -/
def resultToMemory (m : MemOperand) (r : Byte) (s : State) : State :=
  ((s.writeByte (effectiveAddr m s) r).advance (1 + memSize m)).setZN r

/-- CMP: R83. -/
def execCmp (src : Source) (s : State) : Host.Outcome State Fault Refusal :=
  .next (compare s.a (sourceValue src s) (s.advance (1 + sourceSize src)))

/-- CPX: R84. -/
def execCpx (src : Source) (s : State) : Host.Outcome State Fault Refusal :=
  .next (compare s.x (sourceValue src s) (s.advance (1 + sourceSize src)))

/-- CPY: R85. -/
def execCpy (src : Source) (s : State) : Host.Outcome State Fault Refusal :=
  .next (compare s.y (sourceValue src s) (s.advance (1 + sourceSize src)))

/-- INC: R87. -/
def execInc (m : MemOperand) (s : State) : Host.Outcome State Fault Refusal :=
  .next (resultToMemory m (memValue m s + 1#8) s)

/-- DEC: R88. -/
def execDec (m : MemOperand) (s : State) : Host.Outcome State Fault Refusal :=
  .next (resultToMemory m (memValue m s - 1#8) s)

/-- INX: R89. -/
def execInx (s : State) : Host.Outcome State Fault Refusal :=
  .next (((s.advance 1).setX (s.x + 1#8)).setZN (s.x + 1#8))

/-- INY: R90. -/
def execIny (s : State) : Host.Outcome State Fault Refusal :=
  .next (((s.advance 1).setY (s.y + 1#8)).setZN (s.y + 1#8))

/-- DEX: R91. -/
def execDex (s : State) : Host.Outcome State Fault Refusal :=
  .next (((s.advance 1).setX (s.x - 1#8)).setZN (s.x - 1#8))

/-- DEY: R92. -/
def execDey (s : State) : Host.Outcome State Fault Refusal :=
  .next (((s.advance 1).setY (s.y - 1#8)).setZN (s.y - 1#8))

end Sys2Proof.Machine
end

