-- ==== Sys2Proof/Machine/FlagsTransfer.lean ====
section
/-! DEFINITION. Flag and transfer instructions (46_flags_transfer.md): CLC SEC CLI SEI CLD SED CLV TAX TAY
TXA TYA TSX TXS. -/

namespace Sys2Proof.Machine

/-- CLC: R111. -/
def execClc (s : State) : Host.Outcome State Fault Refusal :=
  .next ((s.advance 1).setFlags { s.flags with c := false })

/-- SEC: R112. -/
def execSec (s : State) : Host.Outcome State Fault Refusal :=
  .next ((s.advance 1).setFlags { s.flags with c := true })

/-- CLI: R113. -/
def execCli (s : State) : Host.Outcome State Fault Refusal :=
  .next ((s.advance 1).setFlags { s.flags with i := false })

/-- SEI: R114. -/
def execSei (s : State) : Host.Outcome State Fault Refusal :=
  .next ((s.advance 1).setFlags { s.flags with i := true })

/-- CLD: R115. -/
def execCld (s : State) : Host.Outcome State Fault Refusal :=
  .next ((s.advance 1).setFlags { s.flags with d := false })

/-- SED: R116. -/
def execSed (s : State) : Host.Outcome State Fault Refusal :=
  .next ((s.advance 1).setFlags { s.flags with d := true })

/-- CLV: R117. -/
def execClv (s : State) : Host.Outcome State Fault Refusal :=
  .next ((s.advance 1).setFlags { s.flags with v := false })

/-- TAX: R119. -/
def execTax (s : State) : Host.Outcome State Fault Refusal :=
  .next (((s.advance 1).setX s.a).setZN s.a)

/-- TAY: R120. -/
def execTay (s : State) : Host.Outcome State Fault Refusal :=
  .next (((s.advance 1).setY s.a).setZN s.a)

/-- TXA: R121. -/
def execTxa (s : State) : Host.Outcome State Fault Refusal :=
  .next (((s.advance 1).setA s.x).setZN s.x)

/-- TYA: R122. -/
def execTya (s : State) : Host.Outcome State Fault Refusal :=
  .next (((s.advance 1).setA s.y).setZN s.y)

/-- TSX: R123. -/
def execTsx (s : State) : Host.Outcome State Fault Refusal :=
  .next (((s.advance 1).setX s.sp).setZN s.sp)

/-- TXS: R124. It writes Z and N like every transfer (R118). -/
def execTxs (s : State) : Host.Outcome State Fault Refusal :=
  .next (((s.advance 1).setSp s.x).setZN s.x)

end Sys2Proof.Machine
end

