-- ==== Sys2Proof/Machine/Interrupt.lean ====
section
/-! DEFINITION. Software interrupt and return (47_interrupt.md): BRK RTI. -/

namespace Sys2Proof.Machine

/-- BRK: R125. The return address is the BRK's address plus 2: the byte after BRK is skipped. -/
def execBrk (s : State) : Host.Outcome State Fault Refusal :=
  .next ((s.advance 2).takeTrap (s.advance 2).pc Config.brkVector)

/-- RTI: R126. -/
def execRti (s : State) : Host.Outcome State Fault Refusal :=
  .next s.returnFromTrap

end Sys2Proof.Machine
end

