-- ==== Sys2Proof/Machine/Jump.lean ====
section
/-! DEFINITION. Branches, jumps and subroutines (44_branch_jump.md): BPL BMI BVC BVS BCC BCS BNE BEQ JMP
JSR RTS. None writes a flag. -/

namespace Sys2Proof.Machine

/-- BPL: R94, `Branch(N == 0)`. -/
def execBpl (disp : Byte) (s : State) : Host.Outcome State Fault Refusal :=
  .next (branch (!s.flags.n) disp (s.advance 2))

/-- BMI: R95, `Branch(N == 1)`. -/
def execBmi (disp : Byte) (s : State) : Host.Outcome State Fault Refusal :=
  .next (branch s.flags.n disp (s.advance 2))

/-- BVC: R96, `Branch(V == 0)`. -/
def execBvc (disp : Byte) (s : State) : Host.Outcome State Fault Refusal :=
  .next (branch (!s.flags.v) disp (s.advance 2))

/-- BVS: R97, `Branch(V == 1)`. -/
def execBvs (disp : Byte) (s : State) : Host.Outcome State Fault Refusal :=
  .next (branch s.flags.v disp (s.advance 2))

/-- BCC: R98, `Branch(C == 0)`. -/
def execBcc (disp : Byte) (s : State) : Host.Outcome State Fault Refusal :=
  .next (branch (!s.flags.c) disp (s.advance 2))

/-- BCS: R99, `Branch(C == 1)`. -/
def execBcs (disp : Byte) (s : State) : Host.Outcome State Fault Refusal :=
  .next (branch s.flags.c disp (s.advance 2))

/-- BNE: R100, `Branch(Z == 0)`. -/
def execBne (disp : Byte) (s : State) : Host.Outcome State Fault Refusal :=
  .next (branch (!s.flags.z) disp (s.advance 2))

/-- BEQ: R101, `Branch(Z == 1)`. -/
def execBeq (disp : Byte) (s : State) : Host.Outcome State Fault Refusal :=
  .next (branch s.flags.z disp (s.advance 2))

/-- JMP: R102, `PC <- ea`. -/
def execJmp (t : JumpOperand) (s : State) : Host.Outcome State Fault Refusal :=
  .next (s.setPc (jumpTarget t s))

/-- JSR: R103. After the Absolute mode PC is past the 3-byte instruction; the return address pushed is
one less. -/
def execJsr (target : Word) (s : State) : Host.Outcome State Fault Refusal :=
  .next (((s.advance 3).pushWord ((s.advance 3).pc - 1#16)).setPc target)

/-- RTS: R104. -/
def execRts (s : State) : Host.Outcome State Fault Refusal :=
  .next (s.pulledWord.setPc (s.pullWordValue + 1#16))

end Sys2Proof.Machine
end

