-- ==== Sys2Proof/Machine/LoadStore.lean ====
section
/-! DEFINITION. Loads and stores (48_load_store.md): LDA LDX LDY STA STX STY. -/

namespace Sys2Proof.Machine

/-- `MemWrite(ea, 1, v)`, and PC past the instruction; no flag is written (R130, R131, R132). -/
def storeByte (m : MemOperand) (v : Byte) (s : State) : State :=
  (s.writeByte (effectiveAddr m s) v).advance (1 + memSize m)

/-- LDA: R127. -/
def execLda (src : Source) (s : State) : Host.Outcome State Fault Refusal :=
  .next (((s.advance (1 + sourceSize src)).setA (sourceValue src s)).setZN (sourceValue src s))

/-- LDX: R128. -/
def execLdx (src : Source) (s : State) : Host.Outcome State Fault Refusal :=
  .next (((s.advance (1 + sourceSize src)).setX (sourceValue src s)).setZN (sourceValue src s))

/-- LDY: R129. -/
def execLdy (src : Source) (s : State) : Host.Outcome State Fault Refusal :=
  .next (((s.advance (1 + sourceSize src)).setY (sourceValue src s)).setZN (sourceValue src s))

/-- STA: R130. -/
def execSta (m : MemOperand) (s : State) : Host.Outcome State Fault Refusal :=
  .next (storeByte m s.a s)

/-- STX: R131. -/
def execStx (m : MemOperand) (s : State) : Host.Outcome State Fault Refusal :=
  .next (storeByte m s.x s)

/-- STY: R132. -/
def execSty (m : MemOperand) (s : State) : Host.Outcome State Fault Refusal :=
  .next (storeByte m s.y s)

end Sys2Proof.Machine
end

