-- ==== Sys2Proof/Machine/Nop.lean ====
section
/-! DEFINITION. No-ops (49_nop.md): NOP and the placeholder of the undocumented opcodes. -/

namespace Sys2Proof.Machine

/-- NOP: R133, "nothing beyond the fetch". -/
def execNop (s : State) : Host.Outcome State Fault Refusal :=
  .next (s.advance 1)

/-- The undocumented opcode placeholder: R134, the same for each of the 105 bytes. -/
def execUndocumented (_opcode : Byte) (s : State) : Host.Outcome State Fault Refusal :=
  .next (s.advance 1)

end Sys2Proof.Machine
end

