-- ==== Sys2Proof/Machine/Shift.lean ====
section
/-! DEFINITION. Shifts and rotates (42_shift_rotate.md): ASL LSR ROL ROR. -/

namespace Sys2Proof.Machine

/-- The shared end of a shift: `WriteBack(r)`, PC past the instruction, and C, Z and N (R76, R77). -/
def finishShift (t : ShiftOperand) (out : Bool) (r : Byte) (s : State) : State :=
  ((writeBack t r s).advance (1 + shiftSize t)).setFlags (s.flags.afterShift out r)

/-- ASL: R78. -/
def execAsl (t : ShiftOperand) (s : State) : Host.Outcome State Fault Refusal :=
  .next (finishShift t ((shiftValue t s).getLsbD 7) (aslResult (shiftValue t s)) s)

/-- LSR: R79. -/
def execLsr (t : ShiftOperand) (s : State) : Host.Outcome State Fault Refusal :=
  .next (finishShift t ((shiftValue t s).getLsbD 0) (lsrResult (shiftValue t s)) s)

/-- ROL: R80. -/
def execRol (t : ShiftOperand) (s : State) : Host.Outcome State Fault Refusal :=
  .next (finishShift t ((shiftValue t s).getLsbD 7) (rolResult (shiftValue t s) s.flags.c) s)

/-- ROR: R81. -/
def execRor (t : ShiftOperand) (s : State) : Host.Outcome State Fault Refusal :=
  .next (finishShift t ((shiftValue t s).getLsbD 0) (rorResult (shiftValue t s) s.flags.c) s)

end Sys2Proof.Machine
end

