-- ==== Sys2Proof/Machine/Stack.lean ====
section
/-! DEFINITION. Stack instructions (45_stack.md): PHA PLA PHP PLP. -/

namespace Sys2Proof.Machine

/-- PHA: R106. -/
def execPha (s : State) : Host.Outcome State Fault Refusal :=
  .next ((s.advance 1).push s.a)

/-- PLA: R107. -/
def execPla (s : State) : Host.Outcome State Fault Refusal :=
  .next (((s.advance 1).pulled.setA s.pullValue).setZN s.pullValue)

/-- PHP: R108. The stored flags are not changed. -/
def execPhp (s : State) : Host.Outcome State Fault Refusal :=
  .next ((s.advance 1).push s.flags.pushed)

/-- PLP: R109. -/
def execPlp (s : State) : Host.Outcome State Fault Refusal :=
  .next ((s.advance 1).pulled.setFlags { Flags.unpack s.pullValue with u := true })

end Sys2Proof.Machine
end

