-- ==== Sys2Proof/WellFormed.lean ====
section
/-! DEFINITION. Which terms of Instr are instructions of the hardware: the mnemonic has that addressing
mode (40_addressing.md R68), and a placeholder's byte is one of the 105 undocumented opcodes
(30_encoding.md R53). -/

namespace Sys2Proof

/-- The 105 undocumented opcode bytes, as 30_encoding.md R53 lists them. -/
def undocumentedOpcodes : List Byte :=
  [0x02, 0x03, 0x04, 0x07, 0x0B, 0x0C, 0x0F, 0x12, 0x13, 0x14, 0x17, 0x1A, 0x1B] ++
  [0x1C, 0x1F, 0x22, 0x23, 0x27, 0x2B, 0x2F, 0x32, 0x33, 0x34, 0x37, 0x3A, 0x3B] ++
  [0x3C, 0x3F, 0x42, 0x43, 0x44, 0x47, 0x4B, 0x4F, 0x52, 0x53, 0x54, 0x57, 0x5A] ++
  [0x5B, 0x5C, 0x5F, 0x62, 0x63, 0x64, 0x67, 0x6B, 0x6F, 0x72, 0x73, 0x74, 0x77] ++
  [0x7A, 0x7B, 0x7C, 0x7F, 0x80, 0x82, 0x83, 0x87, 0x89, 0x8B, 0x8F, 0x92, 0x93] ++
  [0x97, 0x9B, 0x9C, 0x9E, 0x9F, 0xA3, 0xA7, 0xAB, 0xAF, 0xB2, 0xB3, 0xB7, 0xBB] ++
  [0xBF, 0xC2, 0xC3, 0xC7, 0xCB, 0xCF, 0xD2, 0xD3, 0xD4, 0xD7, 0xDA, 0xDB, 0xDC] ++
  [0xDF, 0xE2, 0xE3, 0xE7, 0xEB, 0xEF, 0xF2, 0xF3, 0xF4, 0xF7, 0xFA, 0xFB, 0xFC] ++
  [0xFF]

/-- The modes of ADC SBC AND ORA EOR CMP LDA (40_addressing.md R68). -/
def accumulatorSourceModes : List Mode :=
  [.immediate, .zeroPage, .zeroPageX, .absolute, .absoluteX, .absoluteY,
    .indexedIndirectX, .indirectIndexedY]

/-- The modes of INC and DEC, and of the memory forms of the shifts (40_addressing.md R68). -/
def modifyModes : List Mode := [.zeroPage, .zeroPageX, .absolute, .absoluteX]

/-- The modes 40_addressing.md R68 gives each mnemonic, for the mnemonics whose operand has a choice;
for the rest, the one mode of their syntax. -/
def Instr.admittedModes : Instr → List Mode
  | .adc _ | .sbc _ | .and _ | .ora _ | .eor _ | .cmp _ | .lda _ => accumulatorSourceModes
  | .cpx _ | .cpy _ => [.immediate, .zeroPage, .absolute]
  | .bit _ => [.zeroPage, .absolute]
  | .ldx _ => [.immediate, .zeroPage, .zeroPageY, .absolute, .absoluteY]
  | .ldy _ => [.immediate, .zeroPage, .zeroPageX, .absolute, .absoluteX]
  | .sta _ =>
    [.zeroPage, .zeroPageX, .absolute, .absoluteX, .absoluteY, .indexedIndirectX, .indirectIndexedY]
  | .stx _ => [.zeroPage, .zeroPageY, .absolute]
  | .sty _ => [.zeroPage, .zeroPageX, .absolute]
  | .asl _ | .lsr _ | .rol _ | .ror _ => .implied :: modifyModes
  | .inc _ | .dec _ => modifyModes
  | .bpl _ | .bmi _ | .bvc _ | .bvs _ | .bcc _ | .bcs _ | .bne _ | .beq _ => [.relative]
  | .jmp _ => [.absolute, .indirect]
  | .jsr _ => [.absolute]
  | .inx | .iny | .dex | .dey | .rts | .pha | .pla | .php | .plp => [.implied]
  | .clc | .sec | .cli | .sei | .cld | .sed | .clv => [.implied]
  | .tax | .tay | .txa | .tya | .tsx | .txs => [.implied]
  | .brk | .rti | .nop | .undocumented _ => [.implied]

/-- A placeholder carries an undocumented opcode byte (30_encoding.md R53); other instructions carry
no opcode byte. -/
def Instr.opcodeAdmitted : Instr → Bool
  | .undocumented op => undocumentedOpcodes.contains op
  | .adc _ | .sbc _ | .and _ | .ora _ | .eor _ | .bit _ | .asl _ | .lsr _ | .rol _ => true
  | .ror _ | .cmp _ | .cpx _ | .cpy _ | .inc _ | .dec _ | .inx | .iny | .dex | .dey => true
  | .bpl _ | .bmi _ | .bvc _ | .bvs _ | .bcc _ | .bcs _ | .bne _ | .beq _ | .jmp _ => true
  | .jsr _ | .rts | .pha | .pla | .php | .plp | .clc | .sec | .cli | .sei | .cld | .sed => true
  | .clv | .tax | .tay | .txa | .tya | .tsx | .txs | .brk | .rti | .lda _ | .ldx _ => true
  | .ldy _ | .sta _ | .stx _ | .sty _ | .nop => true

/-- An instruction of the hardware: an admitted mode and, for a placeholder, an admitted byte. -/
def Instr.wellFormed (i : Instr) : Bool :=
  i.admittedModes.contains i.mode && i.opcodeAdmitted

end Sys2Proof
end

