-- ==== Sys2Proof/Decode.lean ====
section
/-! DEFINITION. The decoder, written from the opcode map of 30_encoding.md R51, and after it the
encoder, written from the Encoding tables of the instruction rules in the spec's files 41 to 49. -/

namespace Sys2Proof

open Sys2Proof.Machine (word lowByte highByte byteOfTableWord)

/-! ## Decoding

A row function takes the opcode byte `op`, the byte `b1` after it and the byte `b2` after that
(30_encoding.md R47). A column that has no arm is a cell of the map that holds a dot: the placeholder. -/

/-- Row 0x of the opcode map (30_encoding.md R51). -/
def decodeRow0 (op b1 b2 : Byte) : Instr :=
  match op.extractLsb' 0 4 with
  | 0x0#4 => .brk
  | 0x1#4 => .ora (.memory (.indexedIndirectX b1))
  | 0x5#4 => .ora (.memory (.zeroPage b1))
  | 0x6#4 => .asl (.memory (.zeroPage b1))
  | 0x8#4 => .php
  | 0x9#4 => .ora (.immediate b1)
  | 0xA#4 => .asl .accumulator
  | 0xD#4 => .ora (.memory (.absolute (word b2 b1)))
  | 0xE#4 => .asl (.memory (.absolute (word b2 b1)))
  | _ => .undocumented op

/-- Row 1x of the opcode map (30_encoding.md R51). -/
def decodeRow1 (op b1 b2 : Byte) : Instr :=
  match op.extractLsb' 0 4 with
  | 0x0#4 => .bpl b1
  | 0x1#4 => .ora (.memory (.indirectIndexedY b1))
  | 0x5#4 => .ora (.memory (.zeroPageX b1))
  | 0x6#4 => .asl (.memory (.zeroPageX b1))
  | 0x8#4 => .clc
  | 0x9#4 => .ora (.memory (.absoluteY (word b2 b1)))
  | 0xD#4 => .ora (.memory (.absoluteX (word b2 b1)))
  | 0xE#4 => .asl (.memory (.absoluteX (word b2 b1)))
  | _ => .undocumented op

/-- Row 2x of the opcode map (30_encoding.md R51). -/
def decodeRow2 (op b1 b2 : Byte) : Instr :=
  match op.extractLsb' 0 4 with
  | 0x0#4 => .jsr (word b2 b1)
  | 0x1#4 => .and (.memory (.indexedIndirectX b1))
  | 0x4#4 => .bit (.zeroPage b1)
  | 0x5#4 => .and (.memory (.zeroPage b1))
  | 0x6#4 => .rol (.memory (.zeroPage b1))
  | 0x8#4 => .plp
  | 0x9#4 => .and (.immediate b1)
  | 0xA#4 => .rol .accumulator
  | 0xC#4 => .bit (.absolute (word b2 b1))
  | 0xD#4 => .and (.memory (.absolute (word b2 b1)))
  | 0xE#4 => .rol (.memory (.absolute (word b2 b1)))
  | _ => .undocumented op

/-- Row 3x of the opcode map (30_encoding.md R51). -/
def decodeRow3 (op b1 b2 : Byte) : Instr :=
  match op.extractLsb' 0 4 with
  | 0x0#4 => .bmi b1
  | 0x1#4 => .and (.memory (.indirectIndexedY b1))
  | 0x5#4 => .and (.memory (.zeroPageX b1))
  | 0x6#4 => .rol (.memory (.zeroPageX b1))
  | 0x8#4 => .sec
  | 0x9#4 => .and (.memory (.absoluteY (word b2 b1)))
  | 0xD#4 => .and (.memory (.absoluteX (word b2 b1)))
  | 0xE#4 => .rol (.memory (.absoluteX (word b2 b1)))
  | _ => .undocumented op

/-- Row 4x of the opcode map (30_encoding.md R51). -/
def decodeRow4 (op b1 b2 : Byte) : Instr :=
  match op.extractLsb' 0 4 with
  | 0x0#4 => .rti
  | 0x1#4 => .eor (.memory (.indexedIndirectX b1))
  | 0x5#4 => .eor (.memory (.zeroPage b1))
  | 0x6#4 => .lsr (.memory (.zeroPage b1))
  | 0x8#4 => .pha
  | 0x9#4 => .eor (.immediate b1)
  | 0xA#4 => .lsr .accumulator
  | 0xC#4 => .jmp (.absolute (word b2 b1))
  | 0xD#4 => .eor (.memory (.absolute (word b2 b1)))
  | 0xE#4 => .lsr (.memory (.absolute (word b2 b1)))
  | _ => .undocumented op

/-- Row 5x of the opcode map (30_encoding.md R51). -/
def decodeRow5 (op b1 b2 : Byte) : Instr :=
  match op.extractLsb' 0 4 with
  | 0x0#4 => .bvc b1
  | 0x1#4 => .eor (.memory (.indirectIndexedY b1))
  | 0x5#4 => .eor (.memory (.zeroPageX b1))
  | 0x6#4 => .lsr (.memory (.zeroPageX b1))
  | 0x8#4 => .cli
  | 0x9#4 => .eor (.memory (.absoluteY (word b2 b1)))
  | 0xD#4 => .eor (.memory (.absoluteX (word b2 b1)))
  | 0xE#4 => .lsr (.memory (.absoluteX (word b2 b1)))
  | _ => .undocumented op

/-- Row 6x of the opcode map (30_encoding.md R51). -/
def decodeRow6 (op b1 b2 : Byte) : Instr :=
  match op.extractLsb' 0 4 with
  | 0x0#4 => .rts
  | 0x1#4 => .adc (.memory (.indexedIndirectX b1))
  | 0x5#4 => .adc (.memory (.zeroPage b1))
  | 0x6#4 => .ror (.memory (.zeroPage b1))
  | 0x8#4 => .pla
  | 0x9#4 => .adc (.immediate b1)
  | 0xA#4 => .ror .accumulator
  | 0xC#4 => .jmp (.indirect (word b2 b1))
  | 0xD#4 => .adc (.memory (.absolute (word b2 b1)))
  | 0xE#4 => .ror (.memory (.absolute (word b2 b1)))
  | _ => .undocumented op

/-- Row 7x of the opcode map (30_encoding.md R51). -/
def decodeRow7 (op b1 b2 : Byte) : Instr :=
  match op.extractLsb' 0 4 with
  | 0x0#4 => .bvs b1
  | 0x1#4 => .adc (.memory (.indirectIndexedY b1))
  | 0x5#4 => .adc (.memory (.zeroPageX b1))
  | 0x6#4 => .ror (.memory (.zeroPageX b1))
  | 0x8#4 => .sei
  | 0x9#4 => .adc (.memory (.absoluteY (word b2 b1)))
  | 0xD#4 => .adc (.memory (.absoluteX (word b2 b1)))
  | 0xE#4 => .ror (.memory (.absoluteX (word b2 b1)))
  | _ => .undocumented op

/-- Row 8x of the opcode map (30_encoding.md R51). -/
def decodeRow8 (op b1 b2 : Byte) : Instr :=
  match op.extractLsb' 0 4 with
  | 0x1#4 => .sta (.indexedIndirectX b1)
  | 0x4#4 => .sty (.zeroPage b1)
  | 0x5#4 => .sta (.zeroPage b1)
  | 0x6#4 => .stx (.zeroPage b1)
  | 0x8#4 => .dey
  | 0xA#4 => .txa
  | 0xC#4 => .sty (.absolute (word b2 b1))
  | 0xD#4 => .sta (.absolute (word b2 b1))
  | 0xE#4 => .stx (.absolute (word b2 b1))
  | _ => .undocumented op

/-- Row 9x of the opcode map (30_encoding.md R51). -/
def decodeRow9 (op b1 b2 : Byte) : Instr :=
  match op.extractLsb' 0 4 with
  | 0x0#4 => .bcc b1
  | 0x1#4 => .sta (.indirectIndexedY b1)
  | 0x4#4 => .sty (.zeroPageX b1)
  | 0x5#4 => .sta (.zeroPageX b1)
  | 0x6#4 => .stx (.zeroPageY b1)
  | 0x8#4 => .tya
  | 0x9#4 => .sta (.absoluteY (word b2 b1))
  | 0xA#4 => .txs
  | 0xD#4 => .sta (.absoluteX (word b2 b1))
  | _ => .undocumented op

/-- Row Ax of the opcode map (30_encoding.md R51). -/
def decodeRowA (op b1 b2 : Byte) : Instr :=
  match op.extractLsb' 0 4 with
  | 0x0#4 => .ldy (.immediate b1)
  | 0x1#4 => .lda (.memory (.indexedIndirectX b1))
  | 0x2#4 => .ldx (.immediate b1)
  | 0x4#4 => .ldy (.memory (.zeroPage b1))
  | 0x5#4 => .lda (.memory (.zeroPage b1))
  | 0x6#4 => .ldx (.memory (.zeroPage b1))
  | 0x8#4 => .tay
  | 0x9#4 => .lda (.immediate b1)
  | 0xA#4 => .tax
  | 0xC#4 => .ldy (.memory (.absolute (word b2 b1)))
  | 0xD#4 => .lda (.memory (.absolute (word b2 b1)))
  | 0xE#4 => .ldx (.memory (.absolute (word b2 b1)))
  | _ => .undocumented op

/-- Row Bx of the opcode map (30_encoding.md R51). -/
def decodeRowB (op b1 b2 : Byte) : Instr :=
  match op.extractLsb' 0 4 with
  | 0x0#4 => .bcs b1
  | 0x1#4 => .lda (.memory (.indirectIndexedY b1))
  | 0x4#4 => .ldy (.memory (.zeroPageX b1))
  | 0x5#4 => .lda (.memory (.zeroPageX b1))
  | 0x6#4 => .ldx (.memory (.zeroPageY b1))
  | 0x8#4 => .clv
  | 0x9#4 => .lda (.memory (.absoluteY (word b2 b1)))
  | 0xA#4 => .tsx
  | 0xC#4 => .ldy (.memory (.absoluteX (word b2 b1)))
  | 0xD#4 => .lda (.memory (.absoluteX (word b2 b1)))
  | 0xE#4 => .ldx (.memory (.absoluteY (word b2 b1)))
  | _ => .undocumented op

/-- Row Cx of the opcode map (30_encoding.md R51). -/
def decodeRowC (op b1 b2 : Byte) : Instr :=
  match op.extractLsb' 0 4 with
  | 0x0#4 => .cpy (.immediate b1)
  | 0x1#4 => .cmp (.memory (.indexedIndirectX b1))
  | 0x4#4 => .cpy (.memory (.zeroPage b1))
  | 0x5#4 => .cmp (.memory (.zeroPage b1))
  | 0x6#4 => .dec (.zeroPage b1)
  | 0x8#4 => .iny
  | 0x9#4 => .cmp (.immediate b1)
  | 0xA#4 => .dex
  | 0xC#4 => .cpy (.memory (.absolute (word b2 b1)))
  | 0xD#4 => .cmp (.memory (.absolute (word b2 b1)))
  | 0xE#4 => .dec (.absolute (word b2 b1))
  | _ => .undocumented op

/-- Row Dx of the opcode map (30_encoding.md R51). -/
def decodeRowD (op b1 b2 : Byte) : Instr :=
  match op.extractLsb' 0 4 with
  | 0x0#4 => .bne b1
  | 0x1#4 => .cmp (.memory (.indirectIndexedY b1))
  | 0x5#4 => .cmp (.memory (.zeroPageX b1))
  | 0x6#4 => .dec (.zeroPageX b1)
  | 0x8#4 => .cld
  | 0x9#4 => .cmp (.memory (.absoluteY (word b2 b1)))
  | 0xD#4 => .cmp (.memory (.absoluteX (word b2 b1)))
  | 0xE#4 => .dec (.absoluteX (word b2 b1))
  | _ => .undocumented op

/-- Row Ex of the opcode map (30_encoding.md R51). -/
def decodeRowE (op b1 b2 : Byte) : Instr :=
  match op.extractLsb' 0 4 with
  | 0x0#4 => .cpx (.immediate b1)
  | 0x1#4 => .sbc (.memory (.indexedIndirectX b1))
  | 0x4#4 => .cpx (.memory (.zeroPage b1))
  | 0x5#4 => .sbc (.memory (.zeroPage b1))
  | 0x6#4 => .inc (.zeroPage b1)
  | 0x8#4 => .inx
  | 0x9#4 => .sbc (.immediate b1)
  | 0xA#4 => .nop
  | 0xC#4 => .cpx (.memory (.absolute (word b2 b1)))
  | 0xD#4 => .sbc (.memory (.absolute (word b2 b1)))
  | 0xE#4 => .inc (.absolute (word b2 b1))
  | _ => .undocumented op

/-- Row Fx of the opcode map (30_encoding.md R51). -/
def decodeRowF (op b1 b2 : Byte) : Instr :=
  match op.extractLsb' 0 4 with
  | 0x0#4 => .beq b1
  | 0x1#4 => .sbc (.memory (.indirectIndexedY b1))
  | 0x5#4 => .sbc (.memory (.zeroPageX b1))
  | 0x6#4 => .inc (.zeroPageX b1)
  | 0x8#4 => .sed
  | 0x9#4 => .sbc (.memory (.absoluteY (word b2 b1)))
  | 0xD#4 => .sbc (.memory (.absoluteX (word b2 b1)))
  | 0xE#4 => .inc (.absoluteX (word b2 b1))
  | _ => .undocumented op

/-- The instruction an opcode byte and the two bytes after it stand for: the whole opcode byte is an
index into the 256-entry table (30_encoding.md R46, R49). Total: every byte is an opcode (R53). -/
def decodeBytes (op b1 b2 : Byte) : Instr :=
  match op.extractLsb' 4 4 with
  | 0x0#4 => decodeRow0 op b1 b2
  | 0x1#4 => decodeRow1 op b1 b2
  | 0x2#4 => decodeRow2 op b1 b2
  | 0x3#4 => decodeRow3 op b1 b2
  | 0x4#4 => decodeRow4 op b1 b2
  | 0x5#4 => decodeRow5 op b1 b2
  | 0x6#4 => decodeRow6 op b1 b2
  | 0x7#4 => decodeRow7 op b1 b2
  | 0x8#4 => decodeRow8 op b1 b2
  | 0x9#4 => decodeRow9 op b1 b2
  | 0xA#4 => decodeRowA op b1 b2
  | 0xB#4 => decodeRowB op b1 b2
  | 0xC#4 => decodeRowC op b1 b2
  | 0xD#4 => decodeRowD op b1 b2
  | 0xE#4 => decodeRowE op b1 b2
  | _ => decodeRowF op b1 b2

/-- The operand bytes of an instruction, little-endian (30_encoding.md R46; 20_memory.md R35). -/
def MemOperand.bytes : MemOperand → List Byte
  | .zeroPage z | .zeroPageX z | .zeroPageY z => [z]
  | .indexedIndirectX z | .indirectIndexedY z => [z]
  | .absolute w | .absoluteX w | .absoluteY w => [lowByte w, highByte w]

/-- The operand bytes of a source operand. -/
def Source.bytes : Source → List Byte
  | .immediate v => [v]
  | .memory m => m.bytes

/-- The operand bytes of a shift operand. -/
def ShiftOperand.bytes : ShiftOperand → List Byte
  | .accumulator => []
  | .memory m => m.bytes

/-- The operand bytes of a jump operand. -/
def JumpOperand.bytes : JumpOperand → List Byte
  | .absolute w | .indirect w => [lowByte w, highByte w]

/-- The bytes that follow the opcode (30_encoding.md R46, R47). -/
def Instr.operandBytes : Instr → List Byte
  | .adc src | .sbc src | .and src | .ora src | .eor src => src.bytes
  | .cmp src | .cpx src | .cpy src => src.bytes
  | .lda src | .ldx src | .ldy src => src.bytes
  | .bit m | .inc m | .dec m | .sta m | .stx m | .sty m => m.bytes
  | .asl t | .lsr t | .rol t | .ror t => t.bytes
  | .bpl d | .bmi d | .bvc d | .bvs d | .bcc d | .bcs d | .bne d | .beq d => [d]
  | .jmp t => t.bytes
  | .jsr w => [lowByte w, highByte w]
  | .inx | .iny | .dex | .dey | .rts | .pha | .pla | .php | .plp => []
  | .clc | .sec | .cli | .sei | .cld | .sed | .clv => []
  | .tax | .tay | .txa | .tya | .tsx | .txs => []
  | .brk | .rti | .nop | .undocumented _ => []

/-- The length of an instruction in bytes, 1 to 3 (30_encoding.md R46). -/
def Instr.length (i : Instr) : Nat := i.operandBytes.length + 1

/-- Why a list of bytes is no instruction. No opcode byte is refused (30_encoding.md R53), so a list
is refused only because it ends too soon; memory, which wraps, never does. -/
inductive DecodeRefusal where
  /-- There is no opcode byte. -/
  | noOpcode
  /-- The list ends before the operand bytes of this opcode do. -/
  | missingOperandBytes (opcode : Byte)
  deriving DecidableEq, Repr

/-- Reads one instruction from the front of a list of bytes and returns the rest of the list. -/
def decode : List Byte → Except DecodeRefusal (Instr × List Byte)
  | [] => .error .noOpcode
  | op :: rest =>
    if rest.length + 1 < (decodeBytes op 0 0).length then .error (.missingOperandBytes op)
    else
      .ok (decodeBytes op (rest.getD 0 0) (rest.getD 1 0),
        rest.drop ((decodeBytes op 0 0).length - 1))

/-- The three bytes a table word stands for: its `nbits` bits as spec/opcode_table.json numbers them,
the first byte the least significant, and 0 above. -/
def bytesOfTableWord (nbits w : Nat) : List Byte :=
  [byteOfTableWord (w % 2 ^ nbits) 0, byteOfTableWord (w % 2 ^ nbits) 1,
    byteOfTableWord (w % 2 ^ nbits) 2]

/-- What the decoder reads from an instruction given as a table word. -/
def decodeTableWord (nbits w : Nat) : Option Instr :=
  match decode (bytesOfTableWord nbits w) with
  | .ok (i, _) => some i
  | .error _ => none

/-! ## Encoding -/

/-- The Encoding table of the instruction's rule: its modes with their opcode bytes, in the table's
order (41_arith_logical.md R70 to 49_nop.md R134). A placeholder is its own opcode byte. -/
def Instr.encodingTable : Instr → List (Mode × Byte)
  | .adc _ =>
    [(.indexedIndirectX, 0x61), (.zeroPage, 0x65), (.immediate, 0x69), (.absolute, 0x6D),
      (.indirectIndexedY, 0x71), (.zeroPageX, 0x75), (.absoluteY, 0x79), (.absoluteX, 0x7D)]
  | .sbc _ =>
    [(.indexedIndirectX, 0xE1), (.zeroPage, 0xE5), (.immediate, 0xE9), (.absolute, 0xED),
      (.indirectIndexedY, 0xF1), (.zeroPageX, 0xF5), (.absoluteY, 0xF9), (.absoluteX, 0xFD)]
  | .and _ =>
    [(.indexedIndirectX, 0x21), (.zeroPage, 0x25), (.immediate, 0x29), (.absolute, 0x2D),
      (.indirectIndexedY, 0x31), (.zeroPageX, 0x35), (.absoluteY, 0x39), (.absoluteX, 0x3D)]
  | .ora _ =>
    [(.indexedIndirectX, 0x01), (.zeroPage, 0x05), (.immediate, 0x09), (.absolute, 0x0D),
      (.indirectIndexedY, 0x11), (.zeroPageX, 0x15), (.absoluteY, 0x19), (.absoluteX, 0x1D)]
  | .eor _ =>
    [(.indexedIndirectX, 0x41), (.zeroPage, 0x45), (.immediate, 0x49), (.absolute, 0x4D),
      (.indirectIndexedY, 0x51), (.zeroPageX, 0x55), (.absoluteY, 0x59), (.absoluteX, 0x5D)]
  | .bit _ => [(.zeroPage, 0x24), (.absolute, 0x2C)]
  | .asl _ =>
    [(.zeroPage, 0x06), (.implied, 0x0A), (.absolute, 0x0E),
      (.zeroPageX, 0x16), (.absoluteX, 0x1E)]
  | .lsr _ =>
    [(.zeroPage, 0x46), (.implied, 0x4A), (.absolute, 0x4E),
      (.zeroPageX, 0x56), (.absoluteX, 0x5E)]
  | .rol _ =>
    [(.zeroPage, 0x26), (.implied, 0x2A), (.absolute, 0x2E),
      (.zeroPageX, 0x36), (.absoluteX, 0x3E)]
  | .ror _ =>
    [(.zeroPage, 0x66), (.implied, 0x6A), (.absolute, 0x6E),
      (.zeroPageX, 0x76), (.absoluteX, 0x7E)]
  | .cmp _ =>
    [(.indexedIndirectX, 0xC1), (.zeroPage, 0xC5), (.immediate, 0xC9), (.absolute, 0xCD),
      (.indirectIndexedY, 0xD1), (.zeroPageX, 0xD5), (.absoluteY, 0xD9), (.absoluteX, 0xDD)]
  | .cpx _ => [(.immediate, 0xE0), (.zeroPage, 0xE4), (.absolute, 0xEC)]
  | .cpy _ => [(.immediate, 0xC0), (.zeroPage, 0xC4), (.absolute, 0xCC)]
  | .inc _ => [(.zeroPage, 0xE6), (.absolute, 0xEE), (.zeroPageX, 0xF6), (.absoluteX, 0xFE)]
  | .dec _ => [(.zeroPage, 0xC6), (.absolute, 0xCE), (.zeroPageX, 0xD6), (.absoluteX, 0xDE)]
  | .inx => [(.implied, 0xE8)]
  | .iny => [(.implied, 0xC8)]
  | .dex => [(.implied, 0xCA)]
  | .dey => [(.implied, 0x88)]
  | .bpl _ => [(.relative, 0x10)]
  | .bmi _ => [(.relative, 0x30)]
  | .bvc _ => [(.relative, 0x50)]
  | .bvs _ => [(.relative, 0x70)]
  | .bcc _ => [(.relative, 0x90)]
  | .bcs _ => [(.relative, 0xB0)]
  | .bne _ => [(.relative, 0xD0)]
  | .beq _ => [(.relative, 0xF0)]
  | .jmp _ => [(.absolute, 0x4C), (.indirect, 0x6C)]
  | .jsr _ => [(.absolute, 0x20)]
  | .rts => [(.implied, 0x60)]
  | .pha => [(.implied, 0x48)]
  | .pla => [(.implied, 0x68)]
  | .php => [(.implied, 0x08)]
  | .plp => [(.implied, 0x28)]
  | .clc => [(.implied, 0x18)]
  | .sec => [(.implied, 0x38)]
  | .cli => [(.implied, 0x58)]
  | .sei => [(.implied, 0x78)]
  | .cld => [(.implied, 0xD8)]
  | .sed => [(.implied, 0xF8)]
  | .clv => [(.implied, 0xB8)]
  | .tax => [(.implied, 0xAA)]
  | .tay => [(.implied, 0xA8)]
  | .txa => [(.implied, 0x8A)]
  | .tya => [(.implied, 0x98)]
  | .tsx => [(.implied, 0xBA)]
  | .txs => [(.implied, 0x9A)]
  | .brk => [(.implied, 0x00)]
  | .rti => [(.implied, 0x40)]
  | .lda _ =>
    [(.indexedIndirectX, 0xA1), (.zeroPage, 0xA5), (.immediate, 0xA9), (.absolute, 0xAD),
      (.indirectIndexedY, 0xB1), (.zeroPageX, 0xB5), (.absoluteY, 0xB9), (.absoluteX, 0xBD)]
  | .ldx _ =>
    [(.immediate, 0xA2), (.zeroPage, 0xA6), (.absolute, 0xAE),
      (.zeroPageY, 0xB6), (.absoluteY, 0xBE)]
  | .ldy _ =>
    [(.immediate, 0xA0), (.zeroPage, 0xA4), (.absolute, 0xAC),
      (.zeroPageX, 0xB4), (.absoluteX, 0xBC)]
  | .sta _ =>
    [(.indexedIndirectX, 0x81), (.zeroPage, 0x85), (.absolute, 0x8D), (.indirectIndexedY, 0x91),
      (.zeroPageX, 0x95), (.absoluteY, 0x99), (.absoluteX, 0x9D)]
  | .stx _ => [(.zeroPage, 0x86), (.absolute, 0x8E), (.zeroPageY, 0x96)]
  | .sty _ => [(.zeroPage, 0x84), (.absolute, 0x8C), (.zeroPageX, 0x94)]
  | .nop => [(.implied, 0xEA)]
  | .undocumented op => if undocumentedOpcodes.contains op then [(.implied, op)] else []

/-- The opcode byte of a well-formed instruction; none for a term that is no instruction. -/
def Instr.opcode (i : Instr) : Option Byte := i.encodingTable.lookup i.mode

/-- The bytes of a well-formed instruction, the opcode first (30_encoding.md R46). A term that is no
instruction has no bytes. -/
def encode (i : Instr) : List Byte :=
  match i.opcode with
  | some op => op :: i.operandBytes
  | none => []

end Sys2Proof
end

