-- ==== Sys2Proof/Machine/Fetch.lean ====
section
/-! DEFINITION. Fetching an instruction's bytes (30_encoding.md R49). -/

namespace Sys2Proof.Machine

/-- The byte at PC and the two after it, addresses modulo 65536 (10_state.md R11). A read has no side
effect (20_memory.md R30), so reading a byte the instruction does not use changes nothing (log entry 4). -/
def fetchBytes (s : State) : List Byte :=
  [s.readByte s.pc, s.readByte (s.pc + 1#16), s.readByte (s.pc + 2#16)]

/-- The instruction at PC: the opcode byte's table entry with its operand bytes (30_encoding.md R49). -/
def fetchInstr (s : State) : Instr :=
  decodeBytes (s.readByte s.pc) (s.readByte (s.pc + 1#16)) (s.readByte (s.pc + 2#16))

/-- The state with a table word's three bytes where the next fetch reads. -/
def placeTableWord (s : State) (nbits w : Nat) : State :=
  s.loadProgram (bytesOfTableWord nbits w) s.pc

end Sys2Proof.Machine
end

