-- ==== Sys2Proof/Machine/Step.lean ====
section
/-! DEFINITION. One step: fetch, dispatch, resolve and perform (30_encoding.md R49). -/

namespace Sys2Proof.Machine

/-- `Step`: the instruction at PC, run. Total and deterministic (30_encoding.md R49). -/
def step (s : State) : Host.Outcome State Fault Refusal := exec (fetchInstr s) s

/-- The state with an instruction, given as a table word, stored where `step` fetches next: at PC. -/
def State.withFetchWord (s : State) (nbits w : Nat) : State := placeTableWord s nbits w

end Sys2Proof.Machine
end

