-- ==== Sys2Proof/Machine/HostPort.lean ====
section
/-! DEFINITION. The host port (10_state.md R21): each host operation, one atomic transaction between two
steps (R22; log entry 11). Construct is `State.reset`, exec is `step`; copy and compare are Lean's own, as
State is plain data. -/

namespace Sys2Proof.Machine

/-- `read(addr)`. -/
def hostRead (s : State) (addr : Word) : Byte := s.readByte addr

/-- `write(addr, v)`. -/
def hostWrite (s : State) (addr : Word) (v : Byte) : State := s.writeByte addr v

/-- `read16(addr)`. -/
def hostRead16 (s : State) (addr : Word) : Word := s.readWord addr

/-- `write16(addr, v)`. -/
def hostWrite16 (s : State) (addr v : Word) : State := s.writeWord addr v

/-- `load_program(bytes, base)`, base 0 when not given (20_memory.md R31). -/
def hostLoadProgram (s : State) (bytes : List Byte) (base : Word := 0x0000#16) : State :=
  s.loadProgram bytes base

/-- `get_flags()`: `Pack()` exactly as stored (10_state.md R14). -/
def hostGetFlags (s : State) : Byte := s.flags.pack

/-- `set_flags(v)`: exactly `Unpack(v)` (10_state.md R15). -/
def hostSetFlags (s : State) (v : Byte) : State := s.setFlags (Flags.unpack v)

/-- The fields the host may read and write one by one (10_state.md R21). -/
inductive Field where
  | a | x | y | sp
  | pc
  | c | z | i | d | b | u | v | n
  deriving DecidableEq, Repr

/-- The width of a field in bits. -/
def fieldWidth (f : Field) : Nat :=
  match f with
  | .a | .x | .y | .sp => 8
  | .pc => 16
  | .c | .z | .i | .d | .b | .u | .v | .n => 1

/-- A read of one field. -/
def hostGetField (s : State) (f : Field) : BitVec (fieldWidth f) :=
  match f with
  | .a => s.a
  | .x => s.x
  | .y => s.y
  | .sp => s.sp
  | .pc => s.pc
  | .c => BitVec.ofBool s.flags.c
  | .z => BitVec.ofBool s.flags.z
  | .i => BitVec.ofBool s.flags.i
  | .d => BitVec.ofBool s.flags.d
  | .b => BitVec.ofBool s.flags.b
  | .u => BitVec.ofBool s.flags.u
  | .v => BitVec.ofBool s.flags.v
  | .n => BitVec.ofBool s.flags.n

/-- A write of one field, to any value of its width. -/
def hostSetField (s : State) (f : Field) (w : BitVec (fieldWidth f)) : State :=
  match f, w with
  | .a, w => s.setA w
  | .x, w => s.setX w
  | .y, w => s.setY w
  | .sp, w => s.setSp w
  | .pc, w => s.setPc w
  | .c, w => s.setFlags { s.flags with c := w.getLsbD 0 }
  | .z, w => s.setFlags { s.flags with z := w.getLsbD 0 }
  | .i, w => s.setFlags { s.flags with i := w.getLsbD 0 }
  | .d, w => s.setFlags { s.flags with d := w.getLsbD 0 }
  | .b, w => s.setFlags { s.flags with b := w.getLsbD 0 }
  | .u, w => s.setFlags { s.flags with u := w.getLsbD 0 }
  | .v, w => s.setFlags { s.flags with v := w.getLsbD 0 }
  | .n, w => s.setFlags { s.flags with n := w.getLsbD 0 }

/-- `exec()`: one step (10_state.md R21). -/
def hostExec (s : State) : Host.Outcome State Fault Refusal := step s

/-- `exec_n(k)`: exactly `k` steps in sequence (70_reset_and_hazards.md R150). -/
def hostExecN : Nat → State → Host.Outcome State Fault Refusal
  | 0, s => .next s
  | k + 1, s =>
    match step s with
    | .next t => hostExecN k t
    | .fault r => .fault r
    | .refused r => .refused r

/-- `exec_all()`, an infinite run with no end state: its state after each number of steps
(70_reset_and_hazards.md R150). -/
def hostExecAll (s : State) : Nat → Host.Outcome State Fault Refusal := fun k => hostExecN k s

/-- The launch PC as the parameter `PC0` (70_reset_and_hazards.md R148): the host sets it. -/
def State.launch (s : State) (pc0 : Word) : State := s.setPc pc0

/-- A host that wants the vector behaviour sets PC from the reset vector after loading memory
(70_reset_and_hazards.md R148). -/
def State.launchFromVector (s : State) : State := s.launch (s.readWord Config.resetVector)

end Sys2Proof.Machine
end

