-- ==== Sys2Proof/Safety.lean ====
section
/-! DEFINITION. The terms claims use: the invariant of the machine, which instructions the spec lets write
each register and flag, the bytes an instruction stores to, and parked states. -/

namespace Sys2Proof.Machine

/-- The invariant: memory is in canonical form. Every value of a register or flag is legal
(10_state.md R9, R17), so nothing else needs one. -/
def State.Inv (s : State) : Prop := s.mem.wf = true

/-- A step that completes: it answers a next state (30_encoding.md R49). -/
def Completes (o : Host.Outcome State Fault Refusal) : Prop := ∃ t, o = .next t

/-- The stack byte `k` pushes below the one SP names: `0x0100 + (SP - k) mod 256`. -/
def State.stackByteAddr (s : State) (k : Nat) : Word :=
  word Config.stackPage (s.sp - BitVec.ofNat 8 k)

end Sys2Proof.Machine

namespace Sys2Proof

open Sys2Proof.Machine

/-! ## Who writes what (10_state.md R10, R13) -/

/-- Does a shift operand name A (42_shift_rotate.md R76)? -/
def ShiftOperand.isAccumulator : ShiftOperand → Bool
  | .accumulator => true
  | .memory _ => false

/-- The instructions R10 lists as writing A; the shifts in their Implied mode only. -/
def Instr.mayWriteA : Instr → Bool
  | .adc _ | .sbc _ | .and _ | .ora _ | .eor _ | .lda _ | .pla | .txa | .tya => true
  | .asl t | .lsr t | .rol t | .ror t => t.isAccumulator
  | .bit _ | .cmp _ | .cpx _ | .cpy _ | .inc _ | .dec _ | .inx | .iny | .dex | .dey => false
  | .bpl _ | .bmi _ | .bvc _ | .bvs _ | .bcc _ | .bcs _ | .bne _ | .beq _ | .jmp _ => false
  | .jsr _ | .rts | .pha | .php | .plp | .clc | .sec | .cli | .sei | .cld | .sed | .clv => false
  | .tax | .tay | .tsx | .txs | .brk | .rti | .ldx _ | .ldy _ | .sta _ | .stx _ => false
  | .sty _ | .nop | .undocumented _ => false

/-- The instructions R10 lists as writing X. -/
def Instr.mayWriteX : Instr → Bool
  | .ldx _ | .tax | .tsx | .inx | .dex => true
  | .adc _ | .sbc _ | .and _ | .ora _ | .eor _ | .bit _ | .asl _ | .lsr _ | .rol _ => false
  | .ror _ | .cmp _ | .cpx _ | .cpy _ | .inc _ | .dec _ | .iny | .dey | .bpl _ | .bmi _ => false
  | .bvc _ | .bvs _ | .bcc _ | .bcs _ | .bne _ | .beq _ | .jmp _ | .jsr _ | .rts | .pha => false
  | .pla | .php | .plp | .clc | .sec | .cli | .sei | .cld | .sed | .clv | .tay | .txa => false
  | .tya | .txs | .brk | .rti | .lda _ | .ldy _ | .sta _ | .stx _ | .sty _ | .nop => false
  | .undocumented _ => false

/-- The instructions R10 lists as writing Y. -/
def Instr.mayWriteY : Instr → Bool
  | .ldy _ | .tay | .iny | .dey => true
  | .adc _ | .sbc _ | .and _ | .ora _ | .eor _ | .bit _ | .asl _ | .lsr _ | .rol _ => false
  | .ror _ | .cmp _ | .cpx _ | .cpy _ | .inc _ | .dec _ | .inx | .dex | .bpl _ | .bmi _ => false
  | .bvc _ | .bvs _ | .bcc _ | .bcs _ | .bne _ | .beq _ | .jmp _ | .jsr _ | .rts | .pha => false
  | .pla | .php | .plp | .clc | .sec | .cli | .sei | .cld | .sed | .clv | .tax | .txa => false
  | .tya | .tsx | .txs | .brk | .rti | .lda _ | .ldx _ | .sta _ | .stx _ | .sty _ => false
  | .nop | .undocumented _ => false

/-- The instructions R10 lists as writing SP: TXS and every push and pull. -/
def Instr.mayWriteSp : Instr → Bool
  | .txs | .pha | .php | .pla | .plp | .jsr _ | .rts | .brk | .rti => true
  | .adc _ | .sbc _ | .and _ | .ora _ | .eor _ | .bit _ | .asl _ | .lsr _ | .rol _ => false
  | .ror _ | .cmp _ | .cpx _ | .cpy _ | .inc _ | .dec _ | .inx | .iny | .dex | .dey => false
  | .bpl _ | .bmi _ | .bvc _ | .bvs _ | .bcc _ | .bcs _ | .bne _ | .beq _ | .jmp _ => false
  | .clc | .sec | .cli | .sei | .cld | .sed | .clv | .tax | .tay | .txa | .tya | .tsx => false
  | .lda _ | .ldx _ | .ldy _ | .sta _ | .stx _ | .sty _ | .nop | .undocumented _ => false

/-- The control-transfer instructions of R10 and R11: they may overwrite PC. -/
def Instr.transfersControl : Instr → Bool
  | .bpl _ | .bmi _ | .bvc _ | .bvs _ | .bcc _ | .bcs _ | .bne _ | .beq _ => true
  | .jmp _ | .jsr _ | .rts | .brk | .rti => true
  | .adc _ | .sbc _ | .and _ | .ora _ | .eor _ | .bit _ | .asl _ | .lsr _ | .rol _ => false
  | .ror _ | .cmp _ | .cpx _ | .cpy _ | .inc _ | .dec _ | .inx | .iny | .dex | .dey => false
  | .pha | .pla | .php | .plp | .clc | .sec | .cli | .sei | .cld | .sed | .clv | .tax => false
  | .tay | .txa | .tya | .tsx | .txs | .lda _ | .ldx _ | .ldy _ | .sta _ | .stx _ => false
  | .sty _ | .nop | .undocumented _ => false

/-- The instructions R13 lists as writing C. -/
def Instr.mayWriteC : Instr → Bool
  | .adc _ | .sbc _ | .cmp _ | .cpx _ | .cpy _ | .asl _ | .lsr _ | .rol _ | .ror _ => true
  | .clc | .sec | .plp | .rti => true
  | .and _ | .ora _ | .eor _ | .bit _ | .inc _ | .dec _ | .inx | .iny | .dex | .dey => false
  | .bpl _ | .bmi _ | .bvc _ | .bvs _ | .bcc _ | .bcs _ | .bne _ | .beq _ | .jmp _ => false
  | .jsr _ | .rts | .pha | .pla | .php | .cli | .sei | .cld | .sed | .clv | .tax | .tay => false
  | .txa | .tya | .tsx | .txs | .brk | .lda _ | .ldx _ | .ldy _ | .sta _ | .stx _ => false
  | .sty _ | .nop | .undocumented _ => false

/-- The instructions R13 lists as writing Z, and N, which has the same writers. -/
def Instr.mayWriteZN : Instr → Bool
  | .adc _ | .sbc _ | .and _ | .ora _ | .eor _ | .bit _ | .cmp _ | .cpx _ | .cpy _ => true
  | .asl _ | .lsr _ | .rol _ | .ror _ | .inc _ | .dec _ | .inx | .iny | .dex | .dey => true
  | .lda _ | .ldx _ | .ldy _ | .tax | .tay | .txa | .tya | .tsx | .txs => true
  | .pla | .plp | .rti => true
  | .bpl _ | .bmi _ | .bvc _ | .bvs _ | .bcc _ | .bcs _ | .bne _ | .beq _ | .jmp _ => false
  | .jsr _ | .rts | .pha | .php | .clc | .sec | .cli | .sei | .cld | .sed | .clv | .brk => false
  | .sta _ | .stx _ | .sty _ | .nop | .undocumented _ => false

/-- The instructions R13 lists as writing I. -/
def Instr.mayWriteI : Instr → Bool
  | .sei | .cli | .brk | .plp | .rti => true
  | .adc _ | .sbc _ | .and _ | .ora _ | .eor _ | .bit _ | .asl _ | .lsr _ | .rol _ => false
  | .ror _ | .cmp _ | .cpx _ | .cpy _ | .inc _ | .dec _ | .inx | .iny | .dex | .dey => false
  | .bpl _ | .bmi _ | .bvc _ | .bvs _ | .bcc _ | .bcs _ | .bne _ | .beq _ | .jmp _ => false
  | .jsr _ | .rts | .pha | .pla | .php | .clc | .sec | .cld | .sed | .clv | .tax | .tay => false
  | .txa | .tya | .tsx | .txs | .lda _ | .ldx _ | .ldy _ | .sta _ | .stx _ | .sty _ => false
  | .nop | .undocumented _ => false

/-- The instructions R13 lists as writing D. -/
def Instr.mayWriteD : Instr → Bool
  | .sed | .cld | .plp | .rti => true
  | .adc _ | .sbc _ | .and _ | .ora _ | .eor _ | .bit _ | .asl _ | .lsr _ | .rol _ => false
  | .ror _ | .cmp _ | .cpx _ | .cpy _ | .inc _ | .dec _ | .inx | .iny | .dex | .dey => false
  | .bpl _ | .bmi _ | .bvc _ | .bvs _ | .bcc _ | .bcs _ | .bne _ | .beq _ | .jmp _ => false
  | .jsr _ | .rts | .pha | .pla | .php | .clc | .sec | .cli | .sei | .clv | .tax | .tay => false
  | .txa | .tya | .tsx | .txs | .brk | .lda _ | .ldx _ | .ldy _ | .sta _ | .stx _ => false
  | .sty _ | .nop | .undocumented _ => false

/-- The instructions R13 lists as writing B. -/
def Instr.mayWriteB : Instr → Bool
  | .brk | .plp | .rti => true
  | .adc _ | .sbc _ | .and _ | .ora _ | .eor _ | .bit _ | .asl _ | .lsr _ | .rol _ => false
  | .ror _ | .cmp _ | .cpx _ | .cpy _ | .inc _ | .dec _ | .inx | .iny | .dex | .dey => false
  | .bpl _ | .bmi _ | .bvc _ | .bvs _ | .bcc _ | .bcs _ | .bne _ | .beq _ | .jmp _ => false
  | .jsr _ | .rts | .pha | .pla | .php | .clc | .sec | .cli | .sei | .cld | .sed | .clv => false
  | .tax | .tay | .txa | .tya | .tsx | .txs | .lda _ | .ldx _ | .ldy _ | .sta _ => false
  | .stx _ | .sty _ | .nop | .undocumented _ => false

/-- The instructions R13 lists as writing U. -/
def Instr.mayWriteU : Instr → Bool
  | .plp | .rti => true
  | .adc _ | .sbc _ | .and _ | .ora _ | .eor _ | .bit _ | .asl _ | .lsr _ | .rol _ => false
  | .ror _ | .cmp _ | .cpx _ | .cpy _ | .inc _ | .dec _ | .inx | .iny | .dex | .dey => false
  | .bpl _ | .bmi _ | .bvc _ | .bvs _ | .bcc _ | .bcs _ | .bne _ | .beq _ | .jmp _ => false
  | .jsr _ | .rts | .pha | .pla | .php | .clc | .sec | .cli | .sei | .cld | .sed | .clv => false
  | .tax | .tay | .txa | .tya | .tsx | .txs | .brk | .lda _ | .ldx _ | .ldy _ | .sta _ => false
  | .stx _ | .sty _ | .nop | .undocumented _ => false

/-- The instructions R13 lists as writing V. -/
def Instr.mayWriteV : Instr → Bool
  | .adc _ | .sbc _ | .bit _ | .clv | .plp | .rti => true
  | .and _ | .ora _ | .eor _ | .asl _ | .lsr _ | .rol _ | .ror _ | .cmp _ | .cpx _ => false
  | .cpy _ | .inc _ | .dec _ | .inx | .iny | .dex | .dey | .bpl _ | .bmi _ | .bvc _ => false
  | .bvs _ | .bcc _ | .bcs _ | .bne _ | .beq _ | .jmp _ | .jsr _ | .rts | .pha | .pla => false
  | .php | .clc | .sec | .cli | .sei | .cld | .sed | .tax | .tay | .txa | .tya | .tsx => false
  | .txs | .brk | .lda _ | .ldx _ | .ldy _ | .sta _ | .stx _ | .sty _ | .nop => false
  | .undocumented _ => false

/-! ## Where an instruction stores (20_memory.md R37) -/

/-- The memory operand of a source operand, if it has one. -/
def Source.memOperand : Source → Option MemOperand
  | .immediate _ => none
  | .memory m => some m

/-- The immediate operand of a source operand, if it has one. -/
def Source.immediateOperand : Source → Option Byte
  | .immediate v => some v
  | .memory _ => none

/-- The memory operand of a shift, if it has one. -/
def ShiftOperand.memOperand : ShiftOperand → Option MemOperand
  | .accumulator => none
  | .memory m => some m

/-- The address a shift stores to: none in the Implied mode. -/
def ShiftOperand.storedAddrs (t : ShiftOperand) (s : State) : List Word :=
  match t with
  | .accumulator => []
  | .memory m => [effectiveAddr m s]

/-- The addresses an instruction stores to, in a state: `ea` of a store or a read-modify-write, and the
stack bytes of its pushes. None for every other instruction and form. -/
def Instr.storedAddrs (i : Instr) (s : State) : List Word :=
  match i with
  | .sta m | .stx m | .sty m | .inc m | .dec m => [effectiveAddr m s]
  | .asl t | .lsr t | .rol t | .ror t => t.storedAddrs s
  | .pha | .php => [s.stackByteAddr 0]
  | .jsr _ => [s.stackByteAddr 0, s.stackByteAddr 1]
  | .brk => [s.stackByteAddr 0, s.stackByteAddr 1, s.stackByteAddr 2]
  | .adc _ | .sbc _ | .and _ | .ora _ | .eor _ | .bit _ | .cmp _ | .cpx _ | .cpy _ => []
  | .inx | .iny | .dex | .dey | .bpl _ | .bmi _ | .bvc _ | .bvs _ | .bcc _ | .bcs _ => []
  | .bne _ | .beq _ | .jmp _ | .rts | .pla | .plp | .clc | .sec | .cli | .sei | .cld => []
  | .sed | .clv | .tax | .tay | .txa | .tya | .tsx | .txs | .rti | .lda _ | .ldx _ => []
  | .ldy _ | .nop | .undocumented _ => []

/-! ## Operands of an instruction -/

/-- The memory operand of an instruction, if its mode addresses a data byte. -/
def Instr.memOperand : Instr → Option MemOperand
  | .adc src | .sbc src | .and src | .ora src | .eor src => src.memOperand
  | .cmp src | .cpx src | .cpy src | .lda src | .ldx src | .ldy src => src.memOperand
  | .asl t | .lsr t | .rol t | .ror t => t.memOperand
  | .bit m | .inc m | .dec m | .sta m | .stx m | .sty m => some m
  | .inx | .iny | .dex | .dey | .bpl _ | .bmi _ | .bvc _ | .bvs _ | .bcc _ | .bcs _ => none
  | .bne _ | .beq _ | .jmp _ | .jsr _ | .rts | .pha | .pla | .php | .plp | .clc | .sec => none
  | .cli | .sei | .cld | .sed | .clv | .tax | .tay | .txa | .tya | .tsx | .txs | .brk => none
  | .rti | .nop | .undocumented _ => none

/-- The immediate operand of an instruction, if it has one. -/
def Instr.immediateOperand : Instr → Option Byte
  | .adc src | .sbc src | .and src | .ora src | .eor src => src.immediateOperand
  | .cmp src | .cpx src | .cpy src | .lda src | .ldx src | .ldy src => src.immediateOperand
  | .bit _ | .asl _ | .lsr _ | .rol _ | .ror _ | .inc _ | .dec _ | .inx | .iny | .dex => none
  | .dey | .bpl _ | .bmi _ | .bvc _ | .bvs _ | .bcc _ | .bcs _ | .bne _ | .beq _ => none
  | .jmp _ | .jsr _ | .rts | .pha | .pla | .php | .plp | .clc | .sec | .cli | .sei => none
  | .cld | .sed | .clv | .tax | .tay | .txa | .tya | .tsx | .txs | .brk | .rti | .sta _ => none
  | .stx _ | .sty _ | .nop | .undocumented _ => none

/-! ## Branches -/

/-- A conditional branch with its condition in the current flags (44_branch_jump.md R94 to R101). -/
def Instr.branchTaken (i : Instr) (f : Flags) : Bool :=
  match i with
  | .bpl _ => !f.n
  | .bmi _ => f.n
  | .bvc _ => !f.v
  | .bvs _ => f.v
  | .bcc _ => !f.c
  | .bcs _ => f.c
  | .bne _ => !f.z
  | .beq _ => f.z
  | .adc _ | .sbc _ | .and _ | .ora _ | .eor _ | .bit _ | .asl _ | .lsr _ | .rol _ => false
  | .ror _ | .cmp _ | .cpx _ | .cpy _ | .inc _ | .dec _ | .inx | .iny | .dex | .dey => false
  | .jmp _ | .jsr _ | .rts | .pha | .pla | .php | .plp | .clc | .sec | .cli | .sei => false
  | .cld | .sed | .clv | .tax | .tay | .txa | .tya | .tsx | .txs | .brk | .rti | .lda _ => false
  | .ldx _ | .ldy _ | .sta _ | .stx _ | .sty _ | .nop | .undocumented _ => false

/-- The displacement of a conditional branch. -/
def Instr.displacement : Instr → Option Byte
  | .bpl d | .bmi d | .bvc d | .bvs d | .bcc d | .bcs d | .bne d | .beq d => some d
  | .adc _ | .sbc _ | .and _ | .ora _ | .eor _ | .bit _ | .asl _ | .lsr _ | .rol _ => none
  | .ror _ | .cmp _ | .cpx _ | .cpy _ | .inc _ | .dec _ | .inx | .iny | .dex | .dey => none
  | .jmp _ | .jsr _ | .rts | .pha | .pla | .php | .plp | .clc | .sec | .cli | .sei => none
  | .cld | .sed | .clv | .tax | .tay | .txa | .tya | .tsx | .txs | .brk | .rti | .lda _ => none
  | .ldx _ | .ldy _ | .sta _ | .stx _ | .sty _ | .nop | .undocumented _ => none

end Sys2Proof

namespace Sys2Proof.Machine

/-! ## Runs -/

/-- The two cases R151 of 70_reset_and_hazards.md lists of a parked state: at PC stands an absolute jump
to PC, or a conditional branch with displacement 0xFE whose condition holds. DESIGN CHOICE, safe: R151
calls parked any state one step leaves unchanged and does not say that its list is complete. A JMP
through a pointer whose target is PC is such a state too, and this predicate does not take it in
(log entry 14). -/
def Parked (s : State) : Prop :=
  fetchInstr s = .jmp (.absolute s.pc) ∨
    ((fetchInstr s).displacement = some 0xFE#8 ∧ (fetchInstr s).branchTaken s.flags = true)

/-- Several pushes, the first byte of the list first (20_memory.md R34). -/
def State.pushAll (s : State) : List Byte → State
  | [] => s
  | v :: rest => (s.push v).pushAll rest

/-- What `n` pulls return, in order (20_memory.md R34). -/
def State.pullAll (s : State) : Nat → List Byte
  | 0 => []
  | n + 1 => s.pullValue :: s.pulled.pullAll n

/-- What `n` pulls leave. -/
def State.pulledAll (s : State) : Nat → State
  | 0 => s
  | n + 1 => s.pulled.pulledAll n

/-- Several byte writes, the first of the list first. -/
def State.writeAll (s : State) : List (Word × Byte) → State
  | [] => s
  | (addr, v) :: rest => (s.writeByte addr v).writeAll rest

/-- The last value a list of writes gives an address, if any. -/
def lastWritten (addr : Word) : List (Word × Byte) → Option Byte
  | [] => none
  | (k, v) :: rest => (lastWritten addr rest).orElse fun _ => if k = addr then some v else none

end Sys2Proof.Machine
end

