-- ==== Sys2Proof/Certificates/Slice0/Obligations.lean ====
section
/-! DEFINITION. The statements for the provers. Those about one instruction give its whole next state, so
each says its result, its frame and that it completes, for every state and every operand form. Opcode
cells other than 0x69, 0xE9, 0x20 and 0x90 are the spec's decision D15; other decisions of
92_eei_decisions.md are named where a statement rests on one. -/

open Sys2Proof Sys2Proof.Machine

/-! ## Encoding (30_encoding.md) -/

/-- Decode and encode agree: the bytes of any well-formed instruction, with every operand, in front of
any bytes, decode to it and leave the rest. -/
def Obligations.DecodeOfEncode : Prop :=
  ∀ (i : Instr) (rest : List Byte), i.wellFormed = true → decode (encode i ++ rest) = .ok (i, rest)

/-- The other direction: every opcode byte with any two bytes after it decodes to a well-formed
instruction, and encoding that gives back the bytes it was read from. -/
def Obligations.EncodeOfDecode : Prop :=
  ∀ op b1 b2 : Byte,
    (decodeBytes op b1 b2).wellFormed = true ∧
      encode (decodeBytes op b1 b2) = [op, b1, b2].take (decodeBytes op b1 b2).length

/-- Sanity: one word of each family, written out from the spec's encodings, decodes to its
instruction. -/
def Obligations.SampleWordsDecode : Prop :=
  decode [0x69, 0xFF] = .ok (.adc (.immediate 0xFF#8), []) ∧
  decode [0x7E, 0x34, 0x12] = .ok (.ror (.memory (.absoluteX 0x1234#16)), []) ∧
  decode [0xDE, 0x34, 0x12] = .ok (.dec (.absoluteX 0x1234#16), []) ∧
  decode [0x6C, 0xFF, 0x30] = .ok (.jmp (.indirect 0x30FF#16), []) ∧
  decode [0x90, 0x02, 0x69] = .ok (.bcc 0x02#8, [0x69#8]) ∧
  decode [0x20, 0x03, 0x10] = .ok (.jsr 0x1003#16, []) ∧
  decode [0x28] = .ok (.plp, []) ∧
  decode [0x9A] = .ok (.txs, []) ∧
  decode [0x00, 0xEA] = .ok (.brk, [0xEA#8]) ∧
  decode [0x91, 0x40] = .ok (.sta (.indirectIndexedY 0x40#8), []) ∧
  decode [0x02, 0xEA] = .ok (.undocumented 0x02#8, [0xEA#8])

/-- The length is a function of the opcode byte alone, and is 1, 2 or 3. -/
def Obligations.OpcodeAloneDecidesLength : Prop :=
  ∀ op b1 b2 c1 c2 : Byte,
    (decodeBytes op b1 b2).length = (decodeBytes op c1 c2).length ∧
      1 ≤ (decodeBytes op b1 b2).length ∧ (decodeBytes op b1 b2).length ≤ 3

/-- The placeholder's slots are exactly the 105 listed bytes, and a step at one of them moves PC by 1
and changes nothing else. The one-byte length is the spec's decision D3. -/
def Obligations.UndocumentedSlotsAreOneByteNoOps : Prop :=
  undocumentedOpcodes.length = 105 ∧ undocumentedOpcodes.Nodup ∧
  (∀ op b1 b2 o : Byte, decodeBytes op b1 b2 = .undocumented o ↔ o = op ∧ op ∈ undocumentedOpcodes) ∧
  ∀ s : State, s.readByte s.pc ∈ undocumentedOpcodes → step s = .next { s with pc := s.pc + 1#16 }

/-! ## The step (30_encoding.md R49) and whole-machine rules -/

/-- When the bytes at PC decode to a well-formed instruction, step is exec of it, with nothing added:
exec itself moves PC past the instruction. -/
def Obligations.StepRunsDecodedInstruction : Prop :=
  ∀ (s : State) (i : Instr) (rest : List Byte),
    decode (fetchBytes s) = .ok (i, rest) → i.wellFormed = true → step s = exec i s

/-- R49: a step reads the opcode at PC, dispatches through the table, resolves and performs; it is
defined for every state and every opcode byte, and never faults or stops. -/
def Obligations.EveryStepCompletes : Prop :=
  ∀ s : State, ∃ (i : Instr) (rest : List Byte) (t : State),
    decode [s.readByte s.pc, s.readByte (s.pc + 1#16), s.readByte (s.pc + 2#16)] = .ok (i, rest) ∧
      i.wellFormed = true ∧ step s = exec i s ∧ exec i s = .next t

/-- Every step keeps memory in its canonical form, from every state that has it. -/
def Obligations.StepKeepsInvariant : Prop :=
  ∀ s t : State, s.Inv → step s = .next t → t.Inv

/-- The reset state meets the invariant. -/
def Obligations.ResetMeetsInvariant : Prop := State.reset.Inv

/-- Every host operation keeps the invariant. -/
def Obligations.HostOperationsKeepInvariant : Prop :=
  ∀ s : State, s.Inv →
    (∀ a v, (hostWrite s a v).Inv) ∧ (∀ a v, (hostWrite16 s a v).Inv) ∧
    (∀ bytes base, (hostLoadProgram s bytes base).Inv) ∧ (∀ v, (hostSetFlags s v).Inv) ∧
    (∀ f v, (hostSetField s f v).Inv) ∧ (∀ pc0, (s.launch pc0).Inv) ∧
    (∀ k t, hostExecN k s = .next t → t.Inv)

/-- R11: an instruction that does not transfer control leaves PC at the first byte after itself,
modulo 65536. -/
def Obligations.PcMovesPastInstruction : Prop :=
  ∀ (i : Instr) (s t : State), i.transfersControl = false → exec i s = .next t →
    t.pc.toNat = (s.pc.toNat + i.length) % 65536

/-- Only the instructions listed for a register write it: A, X, Y and SP, over all instructions. -/
def Obligations.RegisterFrame : Prop :=
  ∀ (i : Instr) (s t : State), exec i s = .next t →
    (i.mayWriteA = false → t.a = s.a) ∧ (i.mayWriteX = false → t.x = s.x) ∧
    (i.mayWriteY = false → t.y = s.y) ∧ (i.mayWriteSp = false → t.sp = s.sp)

/-- Only the instructions listed for a flag write it, over all instructions and all eight flags. -/
def Obligations.FlagFrame : Prop :=
  ∀ (i : Instr) (s t : State), exec i s = .next t →
    (i.mayWriteC = false → t.flags.c = s.flags.c) ∧
    (i.mayWriteZN = false → t.flags.z = s.flags.z ∧ t.flags.n = s.flags.n) ∧
    (i.mayWriteI = false → t.flags.i = s.flags.i) ∧ (i.mayWriteD = false → t.flags.d = s.flags.d) ∧
    (i.mayWriteB = false → t.flags.b = s.flags.b) ∧ (i.mayWriteU = false → t.flags.u = s.flags.u) ∧
    (i.mayWriteV = false → t.flags.v = s.flags.v)

/-- Every byte outside the addresses the instruction stores to reads as before. The stored addresses
are computed: `ea` of a store or read-modify-write, the stack bytes of a push; none otherwise. -/
def Obligations.MemoryFrame : Prop :=
  ∀ (i : Instr) (s t : State), exec i s = .next t →
    ∀ a : Word, a ∉ i.storedAddrs s → t.readByte a = s.readByte a

/-- RTI is the only instruction that clears U and PLP the only one that sets it; PLP is the only one
that sets B, and only BRK and RTI (or a pulled 0) clear it. -/
def Obligations.UnusedAndBreakFlagWriters : Prop :=
  ∀ (i : Instr) (s t : State), exec i s = .next t →
    (s.flags.u = true → t.flags.u = false → i = .rti) ∧
    (s.flags.u = false → t.flags.u = true → i = .plp) ∧
    (s.flags.b = false → t.flags.b = true → i = .plp) ∧
    (s.flags.b = true → t.flags.b = false → i = .plp ∨ i = .brk ∨ i = .rti)

/-- No step reads I to decide anything: two states that differ in I only take the same step and still
agree on everything but I, except that PHP's pushed byte shows I. -/
def Obligations.InterruptDisableMasksNothing : Prop :=
  ∀ (s : State) (x : Bool), ∃ t : State, step s = .next t ∧
    (fetchInstr s ≠ .php → ∃ y, step { s with flags := { s.flags with i := x } } =
      .next { t with flags := { t.flags with i := y } }) ∧
    (fetchInstr s = .php → ∃ v, step { s with flags := { s.flags with i := x } } =
      .next (({ t with flags := { t.flags with i := x } }).writeByte (s.stackByteAddr 0) v))

/-- D is inert: two states that differ in D only take the same step and still agree on everything but
D, except that the status byte PHP or BRK pushes shows D. ADC and SBC are among the rest. D being
inert is the spec's decision D12. -/
def Obligations.DecimalFlagIsInert : Prop :=
  ∀ (s : State) (x : Bool), ∃ t : State, step s = .next t ∧
    (fetchInstr s ≠ .php → fetchInstr s ≠ .brk →
      ∃ y, step { s with flags := { s.flags with d := x } } =
        .next { t with flags := { t.flags with d := y } }) ∧
    (fetchInstr s = .php → ∃ v, step { s with flags := { s.flags with d := x } } =
      .next (({ t with flags := { t.flags with d := x } }).writeByte (s.stackByteAddr 0) v)) ∧
    (fetchInstr s = .brk → ∃ v, step { s with flags := { s.flags with d := x } } =
      .next (({ t with flags := { t.flags with d := x } }).writeByte (s.stackByteAddr 2) v))

/-- No instruction reads the stored B or U: two states that differ in them only take the same step and
still agree on everything else, memory included. -/
def Obligations.BreakAndUnusedNeverRead : Prop :=
  ∀ (s : State) (x y : Bool), ∃ (t : State) (x' y' : Bool), step s = .next t ∧
    step { s with flags := { s.flags with b := x, u := y } } =
      .next { t with flags := { t.flags with b := x', u := y' } }

/-- A store into the instruction stream is seen by the next fetch: STA over the byte after itself makes
the next step run the stored byte as its opcode. -/
def Obligations.StoredOpcodeIsFetchedNext : Prop :=
  ∀ s t : State, exec (.sta (.absolute (s.pc + 3#16))) s = .next t →
    step t = exec (decodeBytes s.a (s.readByte (s.pc + 4#16)) (s.readByte (s.pc + 5#16))) t

/-- An absolute jump to itself and a taken branch to itself stay there: the step returns the same state,
and so does exec_n of every count. That `Parked` is these two cases is the model's choice (log entry 14);
that a run ends so is the spec's decision D13. -/
def Obligations.ParkedStatesStay : Prop :=
  ∀ s : State, Parked s → step s = .next s ∧ ∀ k : Nat, hostExecN k s = .next s

/-- exec_n of 0 does nothing, exec_n of j + k is exec_n of j and then of k, and exec_n always reaches a
next state. The step budget is the spec's decision D13. -/
def Obligations.ExecNRunsExactlyNSteps : Prop :=
  ∀ (s : State) (j k : Nat),
    hostExecN 0 s = .next s ∧ hostExecN 1 s = step s ∧
      ∃ t, hostExecN j s = .next t ∧ hostExecN (j + k) s = hostExecN k t

/-! ## State, memory and the host port (10_state.md, 20_memory.md) -/

/-- R23: the state after construction. A launch changes PC only. -/
def Obligations.ResetState : Prop :=
  State.reset.a = 0x00#8 ∧ State.reset.x = 0x00#8 ∧ State.reset.y = 0x00#8 ∧
  State.reset.sp = 0x00#8 ∧ State.reset.pc = 0x0000#16 ∧
  State.reset.flags.c = false ∧ State.reset.flags.z = false ∧ State.reset.flags.i = false ∧
  State.reset.flags.d = false ∧ State.reset.flags.b = false ∧ State.reset.flags.u = false ∧
  State.reset.flags.v = false ∧ State.reset.flags.n = false ∧
  hostGetFlags State.reset = 0x00#8 ∧ (∀ addr, hostRead State.reset addr = 0x00#8) ∧
  ∀ pc0, State.reset.launch pc0 = { State.reset with pc := pc0 }

/-- The layout of the packed byte, what get_flags returns, and the bytes PHP and BRK push. The addresses
they push to are the spec's decision D2, bit 5 of BRK's pushed byte its D6; that BRK sets I before the
push is 47_interrupt.md's own. -/
def Obligations.PackedStatusLayout : Prop :=
  ∀ s : State,
    (hostGetFlags s).toNat =
      s.flags.n.toNat * 128 + s.flags.v.toNat * 64 + s.flags.u.toNat * 32 + s.flags.b.toNat * 16 +
      s.flags.d.toNat * 8 + s.flags.i.toNat * 4 + s.flags.z.toNat * 2 + s.flags.c.toNat ∧
    (∃ t, exec .php s = .next t ∧ t.readByte (s.stackByteAddr 0) = hostGetFlags s ||| 0x30#8) ∧
    (∃ t, exec .brk s = .next t ∧ t.readByte (s.stackByteAddr 2) =
      hostGetFlags { s with flags := { s.flags with i := true } } ||| 0x30#8)

/-- set_flags after get_flags is the identity, get_flags after set_flags v is v for every v, and
set_flags changes the flags only, each to its own bit. -/
def Obligations.FlagsRoundTrip : Prop :=
  ∀ (s : State) (v : Byte),
    hostSetFlags s (hostGetFlags s) = s ∧ hostGetFlags (hostSetFlags s v) = v ∧
    hostSetFlags s v = { s with flags :=
      { n := v.getLsbD 7, v := v.getLsbD 6, u := v.getLsbD 5, b := v.getLsbD 4,
        d := v.getLsbD 3, i := v.getLsbD 2, z := v.getLsbD 1, c := v.getLsbD 0 } }

/-- Reading a field after the host wrote it gives the written value; the other fields and memory keep
theirs. -/
def Obligations.HostFieldAccess : Prop :=
  ∀ (s : State) (f : Field) (w : BitVec (fieldWidth f)),
    hostGetField (hostSetField s f w) f = w ∧ (hostSetField s f w).mem = s.mem ∧
      ∀ g : Field, g ≠ f → hostGetField (hostSetField s f w) g = hostGetField s g

/-- R27: a write replaces the byte at its address and changes nothing else. It always succeeds. -/
def Obligations.WriteChangesOneByte : Prop :=
  ∀ (s : State) (addr b : Word) (v : Byte),
    (s.writeByte addr v).readByte b = (if b = addr then v else s.readByte b) ∧
    (s.writeByte addr v).a = s.a ∧ (s.writeByte addr v).x = s.x ∧ (s.writeByte addr v).y = s.y ∧
    (s.writeByte addr v).sp = s.sp ∧ (s.writeByte addr v).pc = s.pc ∧
    (s.writeByte addr v).flags = s.flags

/-- After any sequence of writes a read returns the last value written to its address, or 0 from reset
if there was none. -/
def Obligations.ReadReturnsLastWritten : Prop :=
  ∀ (s : State) (writes : List (Word × Byte)) (addr : Word),
    (s.writeAll writes).readByte addr = (lastWritten addr writes).getD (s.readByte addr) ∧
    (State.reset.writeAll writes).readByte addr = (lastWritten addr writes).getD 0x00#8

/-- R28: a word read is little-endian and its high byte's address wraps modulo 65536; a word read
after a word write returns the value, at every address. -/
def Obligations.WordsAreLittleEndian : Prop :=
  ∀ (s : State) (addr v : Word),
    (hostRead16 s addr).toNat =
      (hostRead s (BitVec.ofNat 16 ((addr.toNat + 1) % 65536))).toNat * 256 + (hostRead s addr).toNat ∧
    hostRead16 (hostWrite16 s addr v) addr = v ∧
    (hostRead (hostWrite16 s addr v) addr).toNat = v.toNat % 256 ∧
    ∀ b, b ≠ addr → b ≠ addr + 1#16 → hostRead (hostWrite16 s addr v) b = hostRead s b

/-- load_program puts each byte at its address, wrapping modulo 65536 (the spec's decision D14), and
changes no other byte and no register. For images of at most 65,536 bytes no byte lands twice. -/
def Obligations.LoadProgramPlacesBytes : Prop :=
  ∀ (s : State) (bytes : List Byte) (base : Word), bytes.length ≤ 65536 →
    (∀ k (h : k < bytes.length),
      hostRead (hostLoadProgram s bytes base) (base + BitVec.ofNat 16 k) = bytes[k]) ∧
    (∀ b : Word, (∀ k, k < bytes.length → b ≠ base + BitVec.ofNat 16 k) →
      hostRead (hostLoadProgram s bytes base) b = hostRead s b) ∧
    (hostLoadProgram s bytes base).pc = s.pc ∧ (hostLoadProgram s bytes base).sp = s.sp ∧
    (hostLoadProgram s bytes base).a = s.a ∧ (hostLoadProgram s bytes base).x = s.x ∧
    (hostLoadProgram s bytes base).y = s.y ∧ (hostLoadProgram s bytes base).flags = s.flags

/-- At most 256 pushes and then as many pulls return the values in reverse order and leave SP as it
was. -/
def Obligations.PullsReversePushes : Prop :=
  ∀ (s : State) (values : List Byte), values.length ≤ 256 →
    (s.pushAll values).pullAll values.length = values.reverse ∧
    ((s.pushAll values).pulledAll values.length).sp = s.sp

/-- Two canonical states are equal when every register, flag and memory byte is equal. The canonical
form is the model's choice (log entry 6). -/
def Obligations.EqualReadsMakeEqualStates : Prop :=
  ∀ s t : State, s.Inv → t.Inv → s.a = t.a → s.x = t.x → s.y = t.y → s.sp = t.sp → s.pc = t.pc →
    s.flags = t.flags → (∀ addr, hostRead s addr = hostRead t addr) → s = t

/-! ## Addressing modes (40_addressing.md) -/

/-- The operand bytes come from the bytes at PC, and each memory mode's effective address is as its
rule says, in exact integers: zero-page sums modulo 256, absolute sums modulo 65536. -/
def Obligations.AddressingModes : Prop :=
  ∀ s : State,
    (∀ v, (fetchInstr s).immediateOperand = some v →
      v = s.readByte (s.pc + 1#16) ∧ (fetchInstr s).length = 2) ∧
    (∀ d, (fetchInstr s).displacement = some d →
      d = s.readByte (s.pc + 1#16) ∧ (fetchInstr s).length = 2) ∧
    ((fetchInstr s).mode = .zeroPageY →
      ∃ m, fetchInstr s = .ldx (.memory m) ∨ fetchInstr s = .stx m) ∧
    (∀ w, fetchInstr s = .jmp (.absolute w) ∨ fetchInstr s = .jsr w →
      w.toNat = (s.readByte (s.pc + 2#16)).toNat * 256 + (s.readByte (s.pc + 1#16)).toNat ∧
        (fetchInstr s).length = 3) ∧
    ∀ m, (fetchInstr s).memOperand = some m →
      match m.mode with
      | .zeroPage =>
        (effectiveAddr m s).toNat = (s.readByte (s.pc + 1#16)).toNat ∧ (fetchInstr s).length = 2
      | .zeroPageX =>
        (effectiveAddr m s).toNat = ((s.readByte (s.pc + 1#16)).toNat + s.x.toNat) % 256 ∧
          (fetchInstr s).length = 2
      | .zeroPageY =>
        (effectiveAddr m s).toNat = ((s.readByte (s.pc + 1#16)).toNat + s.y.toNat) % 256 ∧
          (fetchInstr s).length = 2
      | .absolute =>
        (effectiveAddr m s).toNat =
          (s.readByte (s.pc + 2#16)).toNat * 256 + (s.readByte (s.pc + 1#16)).toNat ∧
          (fetchInstr s).length = 3
      | .absoluteX =>
        (effectiveAddr m s).toNat =
          ((s.readByte (s.pc + 2#16)).toNat * 256 + (s.readByte (s.pc + 1#16)).toNat + s.x.toNat) %
            65536 ∧ (fetchInstr s).length = 3
      | .absoluteY =>
        (effectiveAddr m s).toNat =
          ((s.readByte (s.pc + 2#16)).toNat * 256 + (s.readByte (s.pc + 1#16)).toNat + s.y.toNat) %
            65536 ∧ (fetchInstr s).length = 3
      | .indexedIndirectX =>
        effectiveAddr m s =
          zpPtr (BitVec.ofNat 8 ((s.readByte (s.pc + 1#16)).toNat + s.x.toNat)) s ∧
          (fetchInstr s).length = 2
      | .indirectIndexedY =>
        (effectiveAddr m s).toNat =
          ((zpPtr (s.readByte (s.pc + 1#16)) s).toNat + s.y.toNat) % 65536 ∧ (fetchInstr s).length = 2
      | _ => False

/-- A zero-page pointer is little-endian; at 0xFF its high byte comes from 0x0000 or 0x0100 as the OPEN
parameter ZP_PTR_WRAP says (D1, log entry 1), and the statement holds for both values. -/
def Obligations.ZeroPagePointer : Prop :=
  ∀ (q : Byte) (s : State),
    (zpPtr q s).toNat % 256 = (s.readByte (BitVec.ofNat 16 q.toNat)).toNat ∧
    (q ≠ 0xFF#8 →
      (zpPtr q s).toNat / 256 = (s.readByte (BitVec.ofNat 16 (q.toNat + 1))).toNat) ∧
    (q = 0xFF#8 → (zpPtr q s).toNat / 256 =
      (s.readByte (if Config.zpPtrWrap then 0x0000#16 else 0x0100#16)).toNat)

/-- R64: opcode 0x6C alone has the Indirect mode, with the word after it as the pointer. JMP takes the
low byte at the pointer and the high byte at the next address, but at `pointer & 0xFF00` when the
pointer's low byte is 0xFF. Only PC changes. -/
def Obligations.IndirectJumpWrapsInPage : Prop :=
  (∀ op b1 b2 : Byte, (decodeBytes op b1 b2).mode = .indirect ↔ op = 0x6C#8) ∧
  (∀ op b1 b2 : Byte, op = 0x6C#8 →
    (decodeBytes op b1 b2).length = 3 ∧
      decodeBytes op b1 b2 = .jmp (.indirect (BitVec.ofNat 16 (b2.toNat * 256 + b1.toNat)))) ∧
  ∀ (p : Word) (s : State), ∃ target : Word,
    exec (.jmp (.indirect p)) s = .next { s with pc := target } ∧
    target.toNat % 256 = (s.readByte p).toNat ∧
    (p.toNat % 256 ≠ 0xFF → target.toNat / 256 = (s.readByte (p + 1#16)).toNat) ∧
    (p.toNat % 256 = 0xFF → target.toNat / 256 = (s.readByte (p &&& 0xFF00#16)).toNat)

/-! ## Arithmetic and logical instructions (41_arith_logical.md) -/

/-- ADC, every operand form: the exact sum modulo 256 in A; N, V, Z and C by the rule; nothing else
but PC. -/
def Obligations.AdcResult : Prop :=
  ∀ (src : Source) (s : State),
    let m := sourceValue src s
    let t := s.a.toNat + m.toNat + s.flags.c.toNat
    let r := BitVec.ofNat 8 (t % 256)
    exec (.adc src) s = .next { s with
      pc := s.pc + BitVec.ofNat 16 (Instr.adc src).length
      a := r
      flags := { s.flags with
        v := decide ((~~~(s.a ^^^ m) &&& (s.a ^^^ r)) &&& 0x80#8 ≠ 0#8)
        c := decide (t > 0xFF)
        z := decide (r = 0#8)
        n := r.getLsbD 7 } }

/-- SBC, every operand form: A - m - (1 - C) modulo 256; C says no borrow; V by the inverted test. -/
def Obligations.SbcResult : Prop :=
  ∀ (src : Source) (s : State),
    let m := sourceValue src s
    let r := BitVec.ofInt 8 ((s.a.toNat : Int) - m.toNat - (1 - s.flags.c.toNat))
    exec (.sbc src) s = .next { s with
      pc := s.pc + BitVec.ofNat 16 (Instr.sbc src).length
      a := r
      flags := { s.flags with
        v := decide ((s.a ^^^ m) &&& (s.a ^^^ r) &&& 0x80#8 ≠ 0#8)
        c := decide (s.a.toNat ≥ m.toNat + (1 - s.flags.c.toNat))
        z := decide (r = 0#8)
        n := r.getLsbD 7 } }

/-- V is two's-complement overflow: after ADC or SBC it is 1 exactly when the exact signed result lies
outside -128..127. -/
def Obligations.OverflowIsSignedOverflow : Prop :=
  ∀ (src : Source) (s t : State),
    (exec (.adc src) s = .next t → t.flags.v =
      decide (s.a.toInt + (sourceValue src s).toInt + s.flags.c.toNat < -128 ∨
        127 < s.a.toInt + (sourceValue src s).toInt + s.flags.c.toNat)) ∧
    (exec (.sbc src) s = .next t → t.flags.v =
      decide (s.a.toInt - (sourceValue src s).toInt - (1 - s.flags.c.toNat) < -128 ∨
        127 < s.a.toInt - (sourceValue src s).toInt - (1 - s.flags.c.toNat)))

/-- AND, ORA and EOR, every operand form: the bitwise result in A, Z and N from it, C and V kept. -/
def Obligations.LogicalResults : Prop :=
  ∀ (src : Source) (s : State),
    let m := sourceValue src s
    let after := fun (i : Instr) (r : Byte) => (Host.Outcome.next { s with
      pc := s.pc + BitVec.ofNat 16 i.length
      a := r
      flags := { s.flags with z := decide (r = 0#8), n := r.getLsbD 7 } } :
        Host.Outcome State Fault Refusal)
    exec (.and src) s = after (.and src) (s.a &&& m) ∧
    exec (.ora src) s = after (.ora src) (s.a ||| m) ∧
    exec (.eor src) s = after (.eor src) (s.a ^^^ m)

/-- BIT: Z from A and m, N and V from m; A and memory unchanged (the spec's decision D11). -/
def Obligations.BitResult : Prop :=
  ∀ (operand : MemOperand) (s : State),
    let m := s.readByte (effectiveAddr operand s)
    exec (.bit operand) s = .next { s with
      pc := s.pc + BitVec.ofNat 16 (Instr.bit operand).length
      flags := { s.flags with
        z := decide (s.a &&& m = 0#8), n := m.getLsbD 7, v := m.getLsbD 6 } }

/-! ## Shifts and rotates (42_shift_rotate.md) -/

/-- The accumulator forms: the result in A in exact integers, C the bit shifted out, Z and N from the
result (the spec's decision D22), V kept. -/
def Obligations.AccumulatorShiftResults : Prop :=
  ∀ s : State,
    let v := s.a.toNat
    let c0 := s.flags.c.toNat
    let after := fun (r : Byte) (out : Bool) => (Host.Outcome.next { s with
      pc := s.pc + 1#16
      a := r
      flags := { s.flags with c := out, z := decide (r = 0#8), n := r.getLsbD 7 } } :
        Host.Outcome State Fault Refusal)
    exec (.asl .accumulator) s = after (BitVec.ofNat 8 (2 * v % 256)) (decide (v ≥ 128)) ∧
    exec (.lsr .accumulator) s = after (BitVec.ofNat 8 (v / 2)) (decide (v % 2 = 1)) ∧
    exec (.rol .accumulator) s = after (BitVec.ofNat 8 (2 * v % 256 + c0)) (decide (v ≥ 128)) ∧
    exec (.ror .accumulator) s = after (BitVec.ofNat 8 (v / 2 + 128 * c0)) (decide (v % 2 = 1))

/-- The memory forms: the byte at the effective address is replaced by the result; C, Z and N as in the
accumulator forms (D22); A and every other byte kept. -/
def Obligations.MemoryShiftResults : Prop :=
  ∀ (m : MemOperand) (s : State),
    let v := (s.readByte (effectiveAddr m s)).toNat
    let c0 := s.flags.c.toNat
    let after := fun (i : Instr) (r : Byte) (out : Bool) => (Host.Outcome.next
      (({ s with
        pc := s.pc + BitVec.ofNat 16 i.length
        flags := { s.flags with c := out, z := decide (r = 0#8), n := r.getLsbD 7 } }).writeByte
          (effectiveAddr m s) r) : Host.Outcome State Fault Refusal)
    exec (.asl (.memory m)) s =
      after (.asl (.memory m)) (BitVec.ofNat 8 (2 * v % 256)) (decide (v ≥ 128)) ∧
    exec (.lsr (.memory m)) s =
      after (.lsr (.memory m)) (BitVec.ofNat 8 (v / 2)) (decide (v % 2 = 1)) ∧
    exec (.rol (.memory m)) s =
      after (.rol (.memory m)) (BitVec.ofNat 8 (2 * v % 256 + c0)) (decide (v ≥ 128)) ∧
    exec (.ror (.memory m)) s =
      after (.ror (.memory m)) (BitVec.ofNat 8 (v / 2 + 128 * c0)) (decide (v % 2 = 1))

/-! ## Compares, increments and decrements (43_compare_incdec.md) -/

/-- CMP, CPX and CPY, every operand form: C = (reg >= m) unsigned, Z = (reg = m), N = bit 7 of the
difference; no register or memory byte is written, and V is kept (D21). -/
def Obligations.CompareResults : Prop :=
  ∀ (src : Source) (s : State),
    let m := sourceValue src s
    let after := fun (i : Instr) (reg : Byte) => (Host.Outcome.next { s with
      pc := s.pc + BitVec.ofNat 16 i.length
      flags := { s.flags with
        c := decide (reg.toNat ≥ m.toNat), z := decide (reg = m), n := (reg - m).getLsbD 7 } } :
        Host.Outcome State Fault Refusal)
    exec (.cmp src) s = after (.cmp src) s.a ∧ exec (.cpx src) s = after (.cpx src) s.x ∧
    exec (.cpy src) s = after (.cpy src) s.y

/-- R86: every increment and decrement adds or subtracts 1 modulo 256 and writes Z and N from the
result; C and V are unaffected, and so is everything else but PC. -/
def Obligations.IncrementsAndDecrements : Prop :=
  ∀ (m : MemOperand) (s : State),
    let up := fun (v : Byte) => BitVec.ofNat 8 ((v.toNat + 1) % 256)
    let down := fun (v : Byte) => BitVec.ofNat 8 ((v.toNat + 255) % 256)
    let flagged := fun (r : Byte) => { s.flags with z := decide (r = 0#8), n := r.getLsbD 7 }
    let v := s.readByte (effectiveAddr m s)
    exec (.inc m) s = .next (({ s with
      pc := s.pc + BitVec.ofNat 16 (Instr.inc m).length, flags := flagged (up v) }).writeByte
        (effectiveAddr m s) (up v)) ∧
    exec (.dec m) s = .next (({ s with
      pc := s.pc + BitVec.ofNat 16 (Instr.dec m).length, flags := flagged (down v) }).writeByte
        (effectiveAddr m s) (down v)) ∧
    exec .inx s = .next { s with pc := s.pc + 1#16, x := up s.x, flags := flagged (up s.x) } ∧
    exec .iny s = .next { s with pc := s.pc + 1#16, y := up s.y, flags := flagged (up s.y) } ∧
    exec .dex s = .next { s with pc := s.pc + 1#16, x := down s.x, flags := flagged (down s.x) } ∧
    exec .dey s = .next { s with pc := s.pc + 1#16, y := down s.y, flags := flagged (down s.y) }

/-! ## Branches, jumps and subroutines (44_branch_jump.md) -/

/-- The eight conditional branches: taken, PC is the address of the next instruction plus the signed
displacement, modulo 65536; not taken, the next instruction. Nothing else changes. -/
def Obligations.BranchResults : Prop :=
  ∀ (d : Byte) (s : State),
    let after := fun (cond : Bool) => (Host.Outcome.next { s with
      pc := if cond then BitVec.ofInt 16 ((s.pc.toNat : Int) + 2 + d.toInt) else s.pc + 2#16 } :
        Host.Outcome State Fault Refusal)
    exec (.bpl d) s = after (s.flags.n == false) ∧ exec (.bmi d) s = after (s.flags.n == true) ∧
    exec (.bvc d) s = after (s.flags.v == false) ∧ exec (.bvs d) s = after (s.flags.v == true) ∧
    exec (.bcc d) s = after (s.flags.c == false) ∧ exec (.bcs d) s = after (s.flags.c == true) ∧
    exec (.bne d) s = after (s.flags.z == false) ∧ exec (.beq d) s = after (s.flags.z == true)

/-- R98: the byte 0x90 at PC is BCC with the next byte as displacement; it branches if C = 0. -/
def Obligations.BccStep : Prop :=
  ∀ s : State, s.readByte s.pc = 0x90#8 →
    step s = .next { s with
      pc := if s.flags.c = false then
          BitVec.ofInt 16 ((s.pc.toNat : Int) + 2 + (s.readByte (s.pc + 1#16)).toInt)
        else s.pc + 2#16 }

/-- JMP with the target in the instruction sets PC and nothing else. JSR pushes the address of its last
byte, high byte first, and sets PC; SP falls by 2. Writing before decrementing SP is the spec's
decision D2. -/
def Obligations.JmpAndJsrResults : Prop :=
  ∀ (target : Word) (s : State),
    let ret := s.pc + 2#16
    exec (.jmp (.absolute target)) s = .next { s with pc := target } ∧
    exec (.jsr target) s = .next { (((s.writeByte (s.stackByteAddr 0)
        (BitVec.ofNat 8 (ret.toNat / 256))).writeByte (s.stackByteAddr 1)
        (BitVec.ofNat 8 (ret.toNat % 256)))) with pc := target, sp := s.sp - 2#8 }

/-- RTS pulls the low byte and then the high byte and sets PC to the word plus 1; SP rises by 2 and
nothing else changes (pull order: D2). -/
def Obligations.RtsResult : Prop :=
  ∀ s : State,
    let lo := s.readByte (0x0100#16 + (s.sp + 1#8).setWidth 16)
    let hi := s.readByte (0x0100#16 + (s.sp + 2#8).setWidth 16)
    exec .rts s = .next { s with
      pc := BitVec.ofNat 16 (hi.toNat * 256 + lo.toNat + 1), sp := s.sp + 2#8 }

/-- After JSR, an RTS from any state with the same SP and the same two stack bytes goes to the byte
after the JSR, with SP as before the JSR. -/
def Obligations.SubroutineReturns : Prop :=
  ∀ (target : Word) (s called inside : State), exec (.jsr target) s = .next called →
    inside.sp = called.sp →
    inside.readByte (s.stackByteAddr 0) = called.readByte (s.stackByteAddr 0) →
    inside.readByte (s.stackByteAddr 1) = called.readByte (s.stackByteAddr 1) →
    exec .rts inside = .next { inside with pc := s.pc + 3#16, sp := s.sp }

/-! ## Stack instructions (45_stack.md) -/

/-- PHA stores A at 0x0100 + SP and decrements SP; PLA increments SP and loads A from there, with Z and
N from it (Z and N of PLA: D9; order: D2). -/
def Obligations.PhaAndPlaResults : Prop :=
  ∀ s : State,
    let pulled := s.readByte (0x0100#16 + (s.sp + 1#8).setWidth 16)
    exec .pha s = .next { (s.writeByte (0x0100#16 + s.sp.setWidth 16) s.a) with
      pc := s.pc + 1#16, sp := s.sp - 1#8 } ∧
    exec .pla s = .next { s with
      pc := s.pc + 1#16, sp := s.sp + 1#8, a := pulled
      flags := { s.flags with z := decide (pulled = 0#8), n := pulled.getLsbD 7 } }

/-- PHP stores the packed flags with B and U set and keeps the stored flags; PLP loads all eight flags
from the pulled byte and then sets U (order of push and pull: D2). -/
def Obligations.PhpAndPlpResults : Prop :=
  ∀ s : State,
    let v := s.readByte (0x0100#16 + (s.sp + 1#8).setWidth 16)
    exec .php s = .next { (s.writeByte (0x0100#16 + s.sp.setWidth 16) (hostGetFlags s ||| 0x30#8)) with
      pc := s.pc + 1#16, sp := s.sp - 1#8 } ∧
    exec .plp s = .next { s with
      pc := s.pc + 1#16, sp := s.sp + 1#8
      flags := { n := v.getLsbD 7, v := v.getLsbD 6, u := true, b := v.getLsbD 4,
                 d := v.getLsbD 3, i := v.getLsbD 2, z := v.getLsbD 1, c := v.getLsbD 0 } }

/-- PHP and then PLP, with SP and the pushed byte untouched in between, restores every flag but B and
U, which become 1, and SP. -/
def Obligations.PhpThenPlp : Prop :=
  ∀ s pushed between : State, exec .php s = .next pushed → between.sp = pushed.sp →
    between.readByte (s.stackByteAddr 0) = pushed.readByte (s.stackByteAddr 0) →
    exec .plp between = .next { between with
      pc := between.pc + 1#16, sp := s.sp, flags := { s.flags with b := true, u := true } }

/-! ## Flags and transfers (46_flags_transfer.md) -/

/-- The seven flag instructions: one named flag assigned, nothing else but PC. -/
def Obligations.FlagInstructionResults : Prop :=
  ∀ s : State,
    let after := fun (f : Flags) => (Host.Outcome.next { s with pc := s.pc + 1#16, flags := f } :
      Host.Outcome State Fault Refusal)
    exec .clc s = after { s.flags with c := false } ∧ exec .sec s = after { s.flags with c := true } ∧
    exec .cli s = after { s.flags with i := false } ∧ exec .sei s = after { s.flags with i := true } ∧
    exec .cld s = after { s.flags with d := false } ∧ exec .sed s = after { s.flags with d := true } ∧
    exec .clv s = after { s.flags with v := false }

/-- The six transfers: the destination is the source, Z and N from it, nothing else but PC. That TXS
writes Z and N too is the spec's decision D8. -/
def Obligations.TransferResults : Prop :=
  ∀ s : State,
    let flagged := fun (r : Byte) => { s.flags with z := decide (r = 0#8), n := r.getLsbD 7 }
    exec .tax s = .next { s with pc := s.pc + 1#16, x := s.a, flags := flagged s.a } ∧
    exec .tay s = .next { s with pc := s.pc + 1#16, y := s.a, flags := flagged s.a } ∧
    exec .txa s = .next { s with pc := s.pc + 1#16, a := s.x, flags := flagged s.x } ∧
    exec .tya s = .next { s with pc := s.pc + 1#16, a := s.y, flags := flagged s.y } ∧
    exec .tsx s = .next { s with pc := s.pc + 1#16, x := s.sp, flags := flagged s.sp } ∧
    exec .txs s = .next { s with pc := s.pc + 1#16, sp := s.x, flags := flagged s.x }

/-! ## Software interrupt and return (47_interrupt.md, 60_exceptions.md) -/

/-- BRK: the return address PC + 2 and the status byte, with I, B and U set, go on the stack; I becomes
1 and B 0; PC is the word at 0xFFFE of the state before (the pushes cannot reach it). The vector is
the spec's decision D4, the pushed U D6, the stored U D7, the push order D2. -/
def Obligations.BrkResult : Prop :=
  ∀ s : State,
    let ret := s.pc + 2#16
    let status := hostGetFlags { s with flags := { s.flags with i := true } } ||| 0x30#8
    exec .brk s = .next { (((s.writeByte (s.stackByteAddr 0)
        (BitVec.ofNat 8 (ret.toNat / 256))).writeByte (s.stackByteAddr 1)
        (BitVec.ofNat 8 (ret.toNat % 256))).writeByte (s.stackByteAddr 2) status) with
      pc := BitVec.ofNat 16 ((s.readByte 0xFFFF#16).toNat * 256 + (s.readByte 0xFFFE#16).toNat)
      sp := s.sp - 3#8
      flags := { s.flags with i := true, b := false } }

/-- RTI: the flags from the pulled byte with B and U cleared, then PC, low byte first, with no +1; SP
rises by 3 and nothing else changes (pull order: D2). -/
def Obligations.RtiResult : Prop :=
  ∀ s : State,
    let v := s.readByte (0x0100#16 + (s.sp + 1#8).setWidth 16)
    let lo := s.readByte (0x0100#16 + (s.sp + 2#8).setWidth 16)
    let hi := s.readByte (0x0100#16 + (s.sp + 3#8).setWidth 16)
    exec .rti s = .next { s with
      pc := BitVec.ofNat 16 (hi.toNat * 256 + lo.toNat)
      sp := s.sp + 3#8
      flags := { n := v.getLsbD 7, v := v.getLsbD 6, u := false, b := false,
                 d := v.getLsbD 3, i := v.getLsbD 2, z := v.getLsbD 1, c := v.getLsbD 0 } }

/-- After BRK, an RTI from any state with the same SP and the same three stack bytes goes to BRK's
address plus 2, with SP as before, I = 1, B = U = 0 and C, Z, D, V and N as before the BRK. -/
def Obligations.TrapReturns : Prop :=
  ∀ s entered inside : State, exec .brk s = .next entered → inside.sp = entered.sp →
    (∀ k, k < 3 → inside.readByte (s.stackByteAddr k) = entered.readByte (s.stackByteAddr k)) →
    exec .rti inside = .next { inside with
      pc := s.pc + 2#16, sp := s.sp, flags := { s.flags with i := true, b := false, u := false } }

/-! ## Loads and stores (48_load_store.md), no-ops (49_nop.md) -/

/-- LDA, LDX and LDY, every operand form: the register is the operand, Z and N from it, nothing else
but PC (the spec's decision D10). -/
def Obligations.LoadResults : Prop :=
  ∀ (src : Source) (s : State),
    let m := sourceValue src s
    let flagged := { s.flags with z := decide (m = 0#8), n := m.getLsbD 7 }
    exec (.lda src) s = .next { s with
      pc := s.pc + BitVec.ofNat 16 (Instr.lda src).length, a := m, flags := flagged } ∧
    exec (.ldx src) s = .next { s with
      pc := s.pc + BitVec.ofNat 16 (Instr.ldx src).length, x := m, flags := flagged } ∧
    exec (.ldy src) s = .next { s with
      pc := s.pc + BitVec.ofNat 16 (Instr.ldy src).length, y := m, flags := flagged }

/-- STA, STX and STY, every operand form: the register goes to the effective address; no flag and no
register but PC changes (the spec's decision D10). -/
def Obligations.StoreResults : Prop :=
  ∀ (m : MemOperand) (s : State),
    let after := fun (i : Instr) (v : Byte) => (Host.Outcome.next
      (({ s with pc := s.pc + BitVec.ofNat 16 i.length }).writeByte (effectiveAddr m s) v) :
        Host.Outcome State Fault Refusal)
    exec (.sta m) s = after (.sta m) s.a ∧ exec (.stx m) s = after (.stx m) s.x ∧
    exec (.sty m) s = after (.sty m) s.y

/-- NOP and every undocumented placeholder move PC by 1 and change nothing else (length of the
placeholder: D3). -/
def Obligations.NoOpResults : Prop :=
  ∀ (op : Byte) (s : State),
    exec .nop s = .next { s with pc := s.pc + 1#16 } ∧
    exec (.undocumented op) s = .next { s with pc := s.pc + 1#16 }
end

