-- ==== Sys2Proof/Laws/Bits.lean ====
section
/-! SUPPORT. Words and their bytes. -/

namespace Sys2Proof.Machine

@[simp] theorem lowByte_word (hi lo : Byte) : lowByte (word hi lo) = lo := by
  unfold lowByte word
  ext i hi'
  simp only [BitVec.getElem_extractLsb', Nat.zero_add, BitVec.getLsbD_append]
  simp [hi']

@[simp] theorem highByte_word (hi lo : Byte) : highByte (word hi lo) = hi := by
  unfold highByte word
  ext i hi'
  simp only [BitVec.getElem_extractLsb', BitVec.getLsbD_append]
  simp [show ¬ 8 + i < 8 by omega, BitVec.getLsbD_eq_getElem hi']

theorem word_toNat (hi lo : Byte) : (word hi lo).toNat = hi.toNat * 256 + lo.toNat := by
  unfold word
  rw [BitVec.toNat_append, ← Nat.shiftLeft_add_eq_or_of_lt lo.isLt, Nat.shiftLeft_eq]

theorem highByte_toNat (w : Word) : (highByte w).toNat = w.toNat / 256 := by
  have := w.isLt
  rw [highByte, BitVec.extractLsb'_toNat, Nat.shiftRight_eq_div_pow]
  omega

theorem lowByte_toNat (w : Word) : (lowByte w).toNat = w.toNat % 256 := by
  rw [lowByte, BitVec.extractLsb'_toNat]
  rfl

@[simp] theorem word_high_low (w : Word) : word (highByte w) (lowByte w) = w := by
  apply BitVec.eq_of_toNat_eq
  rw [word_toNat, highByte_toNat, lowByte_toNat]
  omega

theorem word_inj {hi lo hi' lo' : Byte} : word hi lo = word hi' lo' ↔ hi = hi' ∧ lo = lo' := by
  constructor
  · intro h
    exact ⟨by simpa using congrArg highByte h, by simpa using congrArg lowByte h⟩
  · rintro ⟨rfl, rfl⟩
    rfl

theorem zext16_toNat (v : Byte) : (zext16 v).toNat = v.toNat := by
  have := v.isLt
  rw [zext16, BitVec.toNat_setWidth]
  omega

end Sys2Proof.Machine
end

