-- ==== Sys2Proof/Laws/Decode.lean ====
section
/-! SUPPORT. The decoder in two parts: what the opcode byte alone decides (a closed fact about 256 bytes)
and the operand bytes put into it. -/

namespace Sys2Proof

open Sys2Proof.Machine

/-- A memory operand of the same mode with other operand bytes. -/
def MemOperand.fill (m : MemOperand) (b1 b2 : Byte) : MemOperand :=
  match m with
  | .zeroPage _ => .zeroPage b1
  | .zeroPageX _ => .zeroPageX b1
  | .zeroPageY _ => .zeroPageY b1
  | .absolute _ => .absolute (word b2 b1)
  | .absoluteX _ => .absoluteX (word b2 b1)
  | .absoluteY _ => .absoluteY (word b2 b1)
  | .indexedIndirectX _ => .indexedIndirectX b1
  | .indirectIndexedY _ => .indirectIndexedY b1

/-- A source operand of the same mode with other operand bytes. -/
def Source.fill (src : Source) (b1 b2 : Byte) : Source :=
  match src with
  | .immediate _ => .immediate b1
  | .memory m => .memory (m.fill b1 b2)

/-- A shift operand of the same mode with other operand bytes. -/
def ShiftOperand.fill (t : ShiftOperand) (b1 b2 : Byte) : ShiftOperand :=
  match t with
  | .accumulator => .accumulator
  | .memory m => .memory (m.fill b1 b2)

/-- A jump operand of the same mode with other operand bytes. -/
def JumpOperand.fill (t : JumpOperand) (b1 b2 : Byte) : JumpOperand :=
  match t with
  | .absolute _ => .absolute (word b2 b1)
  | .indirect _ => .indirect (word b2 b1)

/-- The same operation and mode with other operand bytes. -/
def Instr.fill (i : Instr) (b1 b2 : Byte) : Instr :=
  match i with
  | .adc src => .adc (src.fill b1 b2)
  | .sbc src => .sbc (src.fill b1 b2)
  | .and src => .and (src.fill b1 b2)
  | .ora src => .ora (src.fill b1 b2)
  | .eor src => .eor (src.fill b1 b2)
  | .cmp src => .cmp (src.fill b1 b2)
  | .cpx src => .cpx (src.fill b1 b2)
  | .cpy src => .cpy (src.fill b1 b2)
  | .lda src => .lda (src.fill b1 b2)
  | .ldx src => .ldx (src.fill b1 b2)
  | .ldy src => .ldy (src.fill b1 b2)
  | .bit m => .bit (m.fill b1 b2)
  | .inc m => .inc (m.fill b1 b2)
  | .dec m => .dec (m.fill b1 b2)
  | .sta m => .sta (m.fill b1 b2)
  | .stx m => .stx (m.fill b1 b2)
  | .sty m => .sty (m.fill b1 b2)
  | .asl t => .asl (t.fill b1 b2)
  | .lsr t => .lsr (t.fill b1 b2)
  | .rol t => .rol (t.fill b1 b2)
  | .ror t => .ror (t.fill b1 b2)
  | .jmp t => .jmp (t.fill b1 b2)
  | .jsr _ => .jsr (word b2 b1)
  | .bpl _ => .bpl b1
  | .bmi _ => .bmi b1
  | .bvc _ => .bvc b1
  | .bvs _ => .bvs b1
  | .bcc _ => .bcc b1
  | .bcs _ => .bcs b1
  | .bne _ => .bne b1
  | .beq _ => .beq b1
  | i => i

/-- The opcode byte decides the operation and the mode, and the bytes after it fill its operand
(30_encoding.md R46, R47). -/
theorem decodeBytes_eq_fill (op b1 b2 : Byte) : decodeBytes op b1 b2 = (decodeBytes op 0 0).fill b1 b2 := by
  unfold decodeBytes
  split
  · unfold decodeRow0; split <;> rfl
  · unfold decodeRow1; split <;> rfl
  · unfold decodeRow2; split <;> rfl
  · unfold decodeRow3; split <;> rfl
  · unfold decodeRow4; split <;> rfl
  · unfold decodeRow5; split <;> rfl
  · unfold decodeRow6; split <;> rfl
  · unfold decodeRow7; split <;> rfl
  · unfold decodeRow8; split <;> rfl
  · unfold decodeRow9; split <;> rfl
  · unfold decodeRowA; split <;> rfl
  · unfold decodeRowB; split <;> rfl
  · unfold decodeRowC; split <;> rfl
  · unfold decodeRowD; split <;> rfl
  · unfold decodeRowE; split <;> rfl
  · unfold decodeRowF; split <;> rfl

@[simp] theorem MemOperand.fill_mode (m : MemOperand) (b1 b2 : Byte) : (m.fill b1 b2).mode = m.mode := by
  cases m <;> rfl

@[simp] theorem Source.fill_mode (src : Source) (b1 b2 : Byte) : (src.fill b1 b2).mode = src.mode := by
  cases src with
  | immediate _ => rfl
  | memory m => exact m.fill_mode b1 b2

@[simp] theorem ShiftOperand.fill_mode (t : ShiftOperand) (b1 b2 : Byte) : (t.fill b1 b2).mode = t.mode := by
  cases t with
  | accumulator => rfl
  | memory m => exact m.fill_mode b1 b2

@[simp] theorem JumpOperand.fill_mode (t : JumpOperand) (b1 b2 : Byte) : (t.fill b1 b2).mode = t.mode := by
  cases t <;> rfl

@[simp] theorem Instr.fill_mode (i : Instr) (b1 b2 : Byte) : (i.fill b1 b2).mode = i.mode := by
  cases i <;> simp [Instr.fill, Instr.mode]

@[simp] theorem Instr.fill_opcode (i : Instr) (b1 b2 : Byte) : (i.fill b1 b2).opcode = i.opcode := by
  rw [Instr.opcode, Instr.opcode, Instr.fill_mode]
  cases i <;> rfl

@[simp] theorem Instr.fill_wellFormed (i : Instr) (b1 b2 : Byte) :
    (i.fill b1 b2).wellFormed = i.wellFormed := by
  rw [Instr.wellFormed, Instr.wellFormed, Instr.fill_mode]
  cases i <;> rfl

theorem MemOperand.fill_bytes (m : MemOperand) (b1 b2 : Byte) :
    (m.fill b1 b2).bytes = [b1, b2].take m.bytes.length := by
  cases m <;> simp [MemOperand.fill, MemOperand.bytes]

/-- A filled operand's bytes are the bytes it was filled with. -/
theorem Instr.fill_operandBytes (i : Instr) (b1 b2 : Byte) :
    (i.fill b1 b2).operandBytes = [b1, b2].take i.operandBytes.length := by
  have hs : ∀ src : Source, (src.fill b1 b2).bytes = [b1, b2].take src.bytes.length := by
    intro src
    cases src with
    | immediate _ => rfl
    | memory m => exact m.fill_bytes b1 b2
  have ht : ∀ t : ShiftOperand, (t.fill b1 b2).bytes = [b1, b2].take t.bytes.length := by
    intro t
    cases t with
    | accumulator => rfl
    | memory m => exact m.fill_bytes b1 b2
  have hj : ∀ t : JumpOperand, (t.fill b1 b2).bytes = [b1, b2].take t.bytes.length := by
    intro t
    cases t <;> simp [JumpOperand.fill, JumpOperand.bytes]
  cases i <;> simp [Instr.fill, Instr.operandBytes, hs, ht, hj, MemOperand.fill_bytes]

end Sys2Proof
end

