-- ==== Sys2Proof/Laws/Flags.lean ====
section
/-! SUPPORT. The packed status byte bit by bit, and what each flag computation leaves alone. -/

namespace Sys2Proof.Machine.Flags

/-- Each bit of the packed byte is its flag (10_state.md R14). -/
theorem pack_bits (f : Flags) :
    f.pack.getLsbD 7 = f.n ∧ f.pack.getLsbD 6 = f.v ∧ f.pack.getLsbD 5 = f.u ∧ f.pack.getLsbD 4 = f.b ∧
    f.pack.getLsbD 3 = f.d ∧ f.pack.getLsbD 2 = f.i ∧ f.pack.getLsbD 1 = f.z ∧ f.pack.getLsbD 0 = f.c := by
  rcases f with ⟨n, v, u, b, d, i, z, c⟩
  revert n v u b d i z c
  decide

/-- `Unpack(Pack())` leaves all eight flags unchanged (10_state.md R16). -/
@[simp] theorem unpack_pack (f : Flags) : unpack f.pack = f := by
  obtain ⟨hn, hv, hu, hb, hd, hi, hz, hc⟩ := pack_bits f
  simp only [unpack, hn, hv, hu, hb, hd, hi, hz, hc]

/-- Unpacking a pushed status byte: B and U read 1, the others as stored (45_stack.md R108). -/
theorem unpack_pushed (f : Flags) : unpack f.pushed = { f with b := true, u := true } := by
  rcases f with ⟨n, v, u, b, d, i, z, c⟩
  revert n v u b d i z c
  decide

/-- B and U do not show in a pushed status byte. -/
theorem pushed_b_u (f : Flags) (b u : Bool) : ({ f with b := b, u := u } : Flags).pushed = f.pushed := by
  rcases f with ⟨n, v, u', b', d, i, z, c⟩
  revert n v u' b' d i z c b u
  decide

@[simp] theorem setZN_n (f : Flags) (r : Byte) : (f.setZN r).n = r.getLsbD 7 := rfl
@[simp] theorem setZN_v (f : Flags) (r : Byte) : (f.setZN r).v = f.v := rfl
@[simp] theorem setZN_u (f : Flags) (r : Byte) : (f.setZN r).u = f.u := rfl
@[simp] theorem setZN_b (f : Flags) (r : Byte) : (f.setZN r).b = f.b := rfl
@[simp] theorem setZN_d (f : Flags) (r : Byte) : (f.setZN r).d = f.d := rfl
@[simp] theorem setZN_i (f : Flags) (r : Byte) : (f.setZN r).i = f.i := rfl
@[simp] theorem setZN_z (f : Flags) (r : Byte) : (f.setZN r).z = (r == 0#8) := rfl
@[simp] theorem setZN_c (f : Flags) (r : Byte) : (f.setZN r).c = f.c := rfl

/-- ADC and SBC leave U, B, D and I alone (41_arith_logical.md R70). -/
theorem afterAdd_frame (f : Flags) (a m : Byte) :
    (f.afterAdd a m).u = f.u ∧ (f.afterAdd a m).b = f.b ∧ (f.afterAdd a m).d = f.d ∧
    (f.afterAdd a m).i = f.i := ⟨rfl, rfl, rfl, rfl⟩

/-- A compare leaves V, U, B, D and I alone (43_compare_incdec.md R82). -/
theorem afterCompare_frame (f : Flags) (r m : Byte) :
    (f.afterCompare r m).v = f.v ∧ (f.afterCompare r m).u = f.u ∧ (f.afterCompare r m).b = f.b ∧
    (f.afterCompare r m).d = f.d ∧ (f.afterCompare r m).i = f.i := ⟨rfl, rfl, rfl, rfl, rfl⟩

/-- BIT leaves C, U, B, D and I alone (41_arith_logical.md R75). -/
theorem afterBit_frame (f : Flags) (a m : Byte) :
    (f.afterBit a m).c = f.c ∧ (f.afterBit a m).u = f.u ∧ (f.afterBit a m).b = f.b ∧
    (f.afterBit a m).d = f.d ∧ (f.afterBit a m).i = f.i := ⟨rfl, rfl, rfl, rfl, rfl⟩

/-- A shift leaves V, U, B, D and I alone (42_shift_rotate.md R77). -/
theorem afterShift_frame (f : Flags) (out : Bool) (r : Byte) :
    (f.afterShift out r).v = f.v ∧ (f.afterShift out r).u = f.u ∧ (f.afterShift out r).b = f.b ∧
    (f.afterShift out r).d = f.d ∧ (f.afterShift out r).i = f.i := ⟨rfl, rfl, rfl, rfl, rfl⟩

end Sys2Proof.Machine.Flags
end

