-- ==== Sys2Proof/Laws/Memory.lean ====
section
/-! SUPPORT. Memory: a read after a write, other addresses, the canonical form kept by every operation,
and equal reads make equal canonical memories. -/

namespace Sys2Proof.Machine.Memory

theorem read_nil (a : Nat) : read [] a = unlisted := rfl

theorem read_unlist_same (m : Memory) (a : Nat) : (m.unlist a).read a = unlisted := by
  induction m with
  | nil => rfl
  | cons cell rest ih =>
    by_cases h : cell.1 = a <;> simp [unlist, read, h, ih]

theorem read_unlist_other (m : Memory) {a b : Nat} (h : a ≠ b) : (m.unlist a).read b = m.read b := by
  induction m with
  | nil => rfl
  | cons cell rest ih =>
    by_cases hc : cell.1 = a
    · simp [unlist, read, hc, ih, h]
    · simp [unlist, read, hc, ih]

theorem read_list_other (m : Memory) {a b : Nat} (v : Byte) (h : a ≠ b) :
    (m.list (a, v)).read b = m.read b := by
  induction m with
  | nil => simp [list, read, h]
  | cons cell rest ih =>
    by_cases hc : a < cell.1 <;> simp [list, read, hc, ih, h]

theorem read_list_unlist_same (m : Memory) (a : Nat) (v : Byte) :
    ((m.unlist a).list (a, v)).read a = v := by
  induction m with
  | nil => simp [unlist, list, read]
  | cons cell rest ih =>
    by_cases h : cell.1 = a
    · simp [unlist, h, ih]
    · by_cases hc : a < cell.1 <;> simp [unlist, list, read, h, hc, ih]

/-- A read of the written address returns the written byte (20_memory.md R27, R30). -/
@[simp] theorem read_write_same (m : Memory) (a : Nat) (v : Byte) : (m.write a v).read a = v := by
  by_cases h : v = unlisted
  · simp [write, h, read_unlist_same]
  · simp [write, h, read_list_unlist_same]

/-- A write changes no other address (20_memory.md R27). -/
theorem read_write_other (m : Memory) {a b : Nat} (v : Byte) (h : a ≠ b) :
    (m.write a v).read b = m.read b := by
  by_cases hv : v = unlisted
  · simp [write, hv, read_unlist_other m h]
  · simp [write, hv, read_list_other _ v h, read_unlist_other m h]

theorem unlist_list (m : Memory) (a : Nat) (v : Byte) : (m.list (a, v)).unlist a = m.unlist a := by
  induction m with
  | nil => simp [list, unlist]
  | cons cell rest ih =>
    by_cases hc : a < cell.1
    · simp [list, hc, unlist]
    · by_cases h : cell.1 = a <;> simp [list, hc, unlist, h, ih]

theorem unlist_unlist (m : Memory) (a : Nat) : (m.unlist a).unlist a = m.unlist a := by
  induction m with
  | nil => rfl
  | cons cell rest ih => by_cases h : cell.1 = a <;> simp [unlist, h, ih]

/-- Of two writes to one address only the second counts. -/
@[simp] theorem write_write (m : Memory) (a : Nat) (v w : Byte) : (m.write a v).write a w = m.write a w := by
  have h : (m.write a v).unlist a = m.unlist a := by
    by_cases hv : v = unlisted
    · rw [write, if_pos hv, unlist_unlist]
    · rw [write, if_neg hv, unlist_list, unlist_unlist]
  rw [write, h, ← write]

theorem wfFrom_mono {lo lo' : Nat} {m : Memory} (h : lo ≤ lo') (hw : m.wfFrom lo' = true) :
    m.wfFrom lo = true := by
  cases m with
  | nil => rfl
  | cons cell rest =>
    simp only [wfFrom, Bool.and_eq_true, decide_eq_true_eq] at hw ⊢
    exact ⟨⟨⟨by omega, hw.1.1.2⟩, hw.1.2⟩, hw.2⟩

theorem unlist_wfFrom {lo : Nat} {m : Memory} (a : Nat) (hw : m.wfFrom lo = true) :
    (m.unlist a).wfFrom lo = true := by
  induction m generalizing lo with
  | nil => rfl
  | cons cell rest ih =>
    simp only [wfFrom, Bool.and_eq_true, decide_eq_true_eq] at hw
    by_cases h : cell.1 = a
    · simpa [unlist, h] using wfFrom_mono (by omega) (ih hw.2)
    · simp [unlist, h, wfFrom, hw, ih hw.2]

theorem list_wfFrom {lo a : Nat} {m : Memory} {v : Byte} (hlo : lo ≤ a) (ha : a < 65536)
    (hv : v ≠ unlisted) (hw : (m.unlist a).wfFrom lo = true) :
    ((m.unlist a).list (a, v)).wfFrom lo = true := by
  induction m generalizing lo with
  | nil => simp [unlist, list, wfFrom, hlo, ha, hv]
  | cons cell rest ih =>
    by_cases h : cell.1 = a
    · simp only [unlist, h, if_true] at hw ⊢
      exact ih hlo hw
    · simp only [unlist, h, if_false, wfFrom, Bool.and_eq_true, decide_eq_true_eq] at hw ⊢
      by_cases hc : a < cell.1
      · simp [list, hc, wfFrom, hlo, ha, hv, hw]
      · simp [list, hc, wfFrom, hw, ih (show cell.1 + 1 ≤ a by omega) hw.2]

/-- Every write keeps the canonical form. -/
theorem write_wf {m : Memory} {a : Nat} (v : Byte) (ha : a < 65536) (hw : m.wf = true) :
    (m.write a v).wf = true := by
  by_cases h : v = unlisted
  · rw [write, if_pos h]
    exact unlist_wfFrom a hw
  · rw [write, if_neg h]
    exact list_wfFrom (Nat.zero_le a) ha h (unlist_wfFrom a hw)

/-- The memory of reset is in canonical form. -/
theorem nil_wf : wf [] = true := rfl

theorem read_below {lo a : Nat} {m : Memory} (hw : m.wfFrom lo = true) (h : a < lo) :
    m.read a = unlisted := by
  induction m generalizing lo with
  | nil => rfl
  | cons cell rest ih =>
    simp only [wfFrom, Bool.and_eq_true, decide_eq_true_eq] at hw
    rw [read, if_neg (by omega)]
    exact ih hw.2 (by omega)

theorem eq_of_wfFrom {lo lo' : Nat} {m m' : Memory} (hw : m.wfFrom lo = true)
    (hw' : m'.wfFrom lo' = true) (h : ∀ a, m.read a = m'.read a) : m = m' := by
  induction m generalizing lo lo' m' with
  | nil =>
    cases m' with
    | nil => rfl
    | cons cell rest =>
      simp only [wfFrom, Bool.and_eq_true, decide_eq_true_eq] at hw'
      have := h cell.1
      simp [read] at this
      exact absurd this.symm hw'.1.2
  | cons cell rest ih =>
    simp only [wfFrom, Bool.and_eq_true, decide_eq_true_eq] at hw
    cases m' with
    | nil =>
      have := h cell.1
      simp [read] at this
      exact absurd this hw.1.2
    | cons cell' rest' =>
      simp only [wfFrom, Bool.and_eq_true, decide_eq_true_eq] at hw'
      have hk : cell.1 = cell'.1 := by
        rcases Nat.lt_trichotomy cell.1 cell'.1 with hlt | heq | hgt
        · have := h cell.1
          rw [read, if_pos rfl, read, if_neg (by omega), read_below hw'.2 (by omega)] at this
          exact absurd this hw.1.2
        · exact heq
        · have := h cell'.1
          rw [read, if_neg (by omega), read_below hw.2 (by omega), read, if_pos rfl] at this
          exact absurd this.symm hw'.1.2
      have hv : cell.2 = cell'.2 := by
        have := h cell.1
        rwa [read, if_pos rfl, read, if_pos hk.symm] at this
      have hrest : rest = rest' := ih hw.2 hw'.2 fun a => by
        by_cases ha : a ≤ cell.1
        · rw [read_below hw.2 (by omega), read_below hw'.2 (by omega)]
        · have := h a
          rwa [read, if_neg (by omega), read, if_neg (by omega)] at this
      rw [hrest, Prod.ext hk hv]

/-- Canonical memories that read alike are the same list (10_state.md R21, compare). -/
theorem eq_of_wf {m m' : Memory} (hw : m.wf = true) (hw' : m'.wf = true)
    (h : ∀ a, m.read a = m'.read a) : m = m' := eq_of_wfFrom hw hw' h

/-- A canonical memory lists no address outside the address space. -/
theorem read_outside {m : Memory} (hw : m.wf = true) {a : Nat} (ha : 65536 ≤ a) :
    m.read a = unlisted := by
  have aux : ∀ {lo : Nat} {m : Memory}, m.wfFrom lo = true → m.read a = unlisted := by
    intro lo m
    induction m generalizing lo with
    | nil => intro _; rfl
    | cons cell rest ih =>
      intro hw
      simp only [wfFrom, Bool.and_eq_true, decide_eq_true_eq] at hw
      rw [read, if_neg (by omega)]
      exact ih hw.2
  exact aux hw

end Sys2Proof.Machine.Memory
end

