-- ==== Sys2Proof/Laws/State.lean ====
section
/-! SUPPORT. One lemma per field per update of State, true by rfl. -/

namespace Sys2Proof.Machine.State

@[simp] theorem setA_a (s : State) (v : Byte) : (s.setA v).a = v := rfl
@[simp] theorem setA_x (s : State) (v : Byte) : (s.setA v).x = s.x := rfl
@[simp] theorem setA_y (s : State) (v : Byte) : (s.setA v).y = s.y := rfl
@[simp] theorem setA_sp (s : State) (v : Byte) : (s.setA v).sp = s.sp := rfl
@[simp] theorem setA_pc (s : State) (v : Byte) : (s.setA v).pc = s.pc := rfl
@[simp] theorem setA_flags (s : State) (v : Byte) : (s.setA v).flags = s.flags := rfl
@[simp] theorem setA_mem (s : State) (v : Byte) : (s.setA v).mem = s.mem := rfl

@[simp] theorem setX_a (s : State) (v : Byte) : (s.setX v).a = s.a := rfl
@[simp] theorem setX_x (s : State) (v : Byte) : (s.setX v).x = v := rfl
@[simp] theorem setX_y (s : State) (v : Byte) : (s.setX v).y = s.y := rfl
@[simp] theorem setX_sp (s : State) (v : Byte) : (s.setX v).sp = s.sp := rfl
@[simp] theorem setX_pc (s : State) (v : Byte) : (s.setX v).pc = s.pc := rfl
@[simp] theorem setX_flags (s : State) (v : Byte) : (s.setX v).flags = s.flags := rfl
@[simp] theorem setX_mem (s : State) (v : Byte) : (s.setX v).mem = s.mem := rfl

@[simp] theorem setY_a (s : State) (v : Byte) : (s.setY v).a = s.a := rfl
@[simp] theorem setY_x (s : State) (v : Byte) : (s.setY v).x = s.x := rfl
@[simp] theorem setY_y (s : State) (v : Byte) : (s.setY v).y = v := rfl
@[simp] theorem setY_sp (s : State) (v : Byte) : (s.setY v).sp = s.sp := rfl
@[simp] theorem setY_pc (s : State) (v : Byte) : (s.setY v).pc = s.pc := rfl
@[simp] theorem setY_flags (s : State) (v : Byte) : (s.setY v).flags = s.flags := rfl
@[simp] theorem setY_mem (s : State) (v : Byte) : (s.setY v).mem = s.mem := rfl

@[simp] theorem setSp_a (s : State) (v : Byte) : (s.setSp v).a = s.a := rfl
@[simp] theorem setSp_x (s : State) (v : Byte) : (s.setSp v).x = s.x := rfl
@[simp] theorem setSp_y (s : State) (v : Byte) : (s.setSp v).y = s.y := rfl
@[simp] theorem setSp_sp (s : State) (v : Byte) : (s.setSp v).sp = v := rfl
@[simp] theorem setSp_pc (s : State) (v : Byte) : (s.setSp v).pc = s.pc := rfl
@[simp] theorem setSp_flags (s : State) (v : Byte) : (s.setSp v).flags = s.flags := rfl
@[simp] theorem setSp_mem (s : State) (v : Byte) : (s.setSp v).mem = s.mem := rfl

@[simp] theorem setPc_a (s : State) (v : Word) : (s.setPc v).a = s.a := rfl
@[simp] theorem setPc_x (s : State) (v : Word) : (s.setPc v).x = s.x := rfl
@[simp] theorem setPc_y (s : State) (v : Word) : (s.setPc v).y = s.y := rfl
@[simp] theorem setPc_sp (s : State) (v : Word) : (s.setPc v).sp = s.sp := rfl
@[simp] theorem setPc_pc (s : State) (v : Word) : (s.setPc v).pc = v := rfl
@[simp] theorem setPc_flags (s : State) (v : Word) : (s.setPc v).flags = s.flags := rfl
@[simp] theorem setPc_mem (s : State) (v : Word) : (s.setPc v).mem = s.mem := rfl

@[simp] theorem setFlags_a (s : State) (v : Flags) : (s.setFlags v).a = s.a := rfl
@[simp] theorem setFlags_x (s : State) (v : Flags) : (s.setFlags v).x = s.x := rfl
@[simp] theorem setFlags_y (s : State) (v : Flags) : (s.setFlags v).y = s.y := rfl
@[simp] theorem setFlags_sp (s : State) (v : Flags) : (s.setFlags v).sp = s.sp := rfl
@[simp] theorem setFlags_pc (s : State) (v : Flags) : (s.setFlags v).pc = s.pc := rfl
@[simp] theorem setFlags_flags (s : State) (v : Flags) : (s.setFlags v).flags = v := rfl
@[simp] theorem setFlags_mem (s : State) (v : Flags) : (s.setFlags v).mem = s.mem := rfl

@[simp] theorem setMem_a (s : State) (v : Memory) : (s.setMem v).a = s.a := rfl
@[simp] theorem setMem_x (s : State) (v : Memory) : (s.setMem v).x = s.x := rfl
@[simp] theorem setMem_y (s : State) (v : Memory) : (s.setMem v).y = s.y := rfl
@[simp] theorem setMem_sp (s : State) (v : Memory) : (s.setMem v).sp = s.sp := rfl
@[simp] theorem setMem_pc (s : State) (v : Memory) : (s.setMem v).pc = s.pc := rfl
@[simp] theorem setMem_flags (s : State) (v : Memory) : (s.setMem v).flags = s.flags := rfl
@[simp] theorem setMem_mem (s : State) (v : Memory) : (s.setMem v).mem = v := rfl

@[simp] theorem setZN_a (s : State) (r : Byte) : (s.setZN r).a = s.a := rfl
@[simp] theorem setZN_x (s : State) (r : Byte) : (s.setZN r).x = s.x := rfl
@[simp] theorem setZN_y (s : State) (r : Byte) : (s.setZN r).y = s.y := rfl
@[simp] theorem setZN_sp (s : State) (r : Byte) : (s.setZN r).sp = s.sp := rfl
@[simp] theorem setZN_pc (s : State) (r : Byte) : (s.setZN r).pc = s.pc := rfl
@[simp] theorem setZN_flags (s : State) (r : Byte) : (s.setZN r).flags = s.flags.setZN r := rfl
@[simp] theorem setZN_mem (s : State) (r : Byte) : (s.setZN r).mem = s.mem := rfl

@[simp] theorem advance_a (s : State) (n : Nat) : (s.advance n).a = s.a := rfl
@[simp] theorem advance_x (s : State) (n : Nat) : (s.advance n).x = s.x := rfl
@[simp] theorem advance_y (s : State) (n : Nat) : (s.advance n).y = s.y := rfl
@[simp] theorem advance_sp (s : State) (n : Nat) : (s.advance n).sp = s.sp := rfl
@[simp] theorem advance_pc (s : State) (n : Nat) : (s.advance n).pc = s.pc + BitVec.ofNat 16 n := rfl
@[simp] theorem advance_flags (s : State) (n : Nat) : (s.advance n).flags = s.flags := rfl
@[simp] theorem advance_mem (s : State) (n : Nat) : (s.advance n).mem = s.mem := rfl

@[simp] theorem writeByte_a (s : State) (k : Word) (v : Byte) : (s.writeByte k v).a = s.a := rfl
@[simp] theorem writeByte_x (s : State) (k : Word) (v : Byte) : (s.writeByte k v).x = s.x := rfl
@[simp] theorem writeByte_y (s : State) (k : Word) (v : Byte) : (s.writeByte k v).y = s.y := rfl
@[simp] theorem writeByte_sp (s : State) (k : Word) (v : Byte) : (s.writeByte k v).sp = s.sp := rfl
@[simp] theorem writeByte_pc (s : State) (k : Word) (v : Byte) : (s.writeByte k v).pc = s.pc := rfl
@[simp] theorem writeByte_flags (s : State) (k : Word) (v : Byte) : (s.writeByte k v).flags = s.flags := rfl
@[simp] theorem writeByte_mem (s : State) (k : Word) (v : Byte) : (s.writeByte k v).mem = s.mem.write k.toNat v := rfl

@[simp] theorem push_a (s : State) (v : Byte) : (s.push v).a = s.a := rfl
@[simp] theorem push_x (s : State) (v : Byte) : (s.push v).x = s.x := rfl
@[simp] theorem push_y (s : State) (v : Byte) : (s.push v).y = s.y := rfl
@[simp] theorem push_sp (s : State) (v : Byte) : (s.push v).sp = s.sp - 1#8 := rfl
@[simp] theorem push_pc (s : State) (v : Byte) : (s.push v).pc = s.pc := rfl
@[simp] theorem push_flags (s : State) (v : Byte) : (s.push v).flags = s.flags := rfl
@[simp] theorem push_mem (s : State) (v : Byte) : (s.push v).mem = s.mem.write s.stackAddr.toNat v := rfl

@[simp] theorem pulled_a (s : State) : s.pulled.a = s.a := rfl
@[simp] theorem pulled_x (s : State) : s.pulled.x = s.x := rfl
@[simp] theorem pulled_y (s : State) : s.pulled.y = s.y := rfl
@[simp] theorem pulled_sp (s : State) : s.pulled.sp = s.sp + 1#8 := rfl
@[simp] theorem pulled_pc (s : State) : s.pulled.pc = s.pc := rfl
@[simp] theorem pulled_flags (s : State) : s.pulled.flags = s.flags := rfl
@[simp] theorem pulled_mem (s : State) : s.pulled.mem = s.mem := rfl

/-! A read depends on memory only, so a register write does not change it. -/

@[simp] theorem readByte_setA (s : State) (v : Byte) (k : Word) : (s.setA v).readByte k = s.readByte k := rfl
@[simp] theorem readByte_setX (s : State) (v : Byte) (k : Word) : (s.setX v).readByte k = s.readByte k := rfl
@[simp] theorem readByte_setY (s : State) (v : Byte) (k : Word) : (s.setY v).readByte k = s.readByte k := rfl
@[simp] theorem readByte_setSp (s : State) (v : Byte) (k : Word) : (s.setSp v).readByte k = s.readByte k := rfl
@[simp] theorem readByte_setPc (s : State) (v : Word) (k : Word) : (s.setPc v).readByte k = s.readByte k := rfl
@[simp] theorem readByte_setFlags (s : State) (v : Flags) (k : Word) : (s.setFlags v).readByte k = s.readByte k := rfl
@[simp] theorem readByte_setZN (s : State) (r : Byte) (k : Word) : (s.setZN r).readByte k = s.readByte k := rfl
@[simp] theorem readByte_advance (s : State) (n : Nat) (k : Word) : (s.advance n).readByte k = s.readByte k := rfl
@[simp] theorem readByte_pulled (s : State) (k : Word) : s.pulled.readByte k = s.readByte k := rfl

/-- Two states are equal when their fields are. -/
theorem eq_of_fields {s t : State} (ha : s.a = t.a) (hx : s.x = t.x) (hy : s.y = t.y) (hsp : s.sp = t.sp)
    (hpc : s.pc = t.pc) (hf : s.flags = t.flags) (hm : s.mem = t.mem) : s = t := by
  cases s
  cases t
  simp_all

end Sys2Proof.Machine.State
end

