-- ==== Sys2Proof/Laws/Ops.lean ====
section
/-! SUPPORT. What each shared operation does: byte and word accesses, push and pull, the loader, the trap
and the return from it. Callers cite these rather than unfold the operation. -/

namespace Sys2Proof.Machine.State

/-! ## Byte accesses -/

@[simp] theorem readByte_writeByte_same (s : State) (k : Word) (v : Byte) :
    (s.writeByte k v).readByte k = v := Memory.read_write_same _ _ _

theorem readByte_writeByte_other (s : State) {k b : Word} (v : Byte) (h : k ≠ b) :
    (s.writeByte k v).readByte b = s.readByte b :=
  Memory.read_write_other _ _ fun he => h (BitVec.eq_of_toNat_eq he)

/-- One lemma for both cases. -/
theorem readByte_writeByte (s : State) (k b : Word) (v : Byte) :
    (s.writeByte k v).readByte b = if k = b then v else s.readByte b := by
  by_cases h : k = b
  · simp [h]
  · rw [if_neg h, readByte_writeByte_other s v h]

theorem readByte_congr {s t : State} (h : s.mem = t.mem) (k : Word) : s.readByte k = t.readByte k := by
  rw [readByte, readByte, h]

/-- What a state reads whose memory is another's with one byte written. -/
theorem readByte_of_mem_write {s t : State} {k a : Word} {v : Byte} (h : t.mem = s.mem.write k.toNat v)
    (hk : k ≠ a) : t.readByte a = s.readByte a := by
  rw [readByte, h]
  exact Memory.read_write_other _ _ fun he => hk (BitVec.eq_of_toNat_eq he)

theorem writeByte_wf {s : State} (k : Word) (v : Byte) (h : s.mem.wf = true) :
    (s.writeByte k v).mem.wf = true := Memory.write_wf v k.isLt h

/-! ## The stack -/

theorem stackAddr_toNat (s : State) : s.stackAddr.toNat = 256 + s.sp.toNat := by
  rw [stackAddr, word_toNat]
  rfl

@[simp] theorem readByte_push_same (s : State) (v : Byte) : (s.push v).readByte s.stackAddr = v :=
  readByte_writeByte_same s s.stackAddr v

theorem readByte_push (s : State) (k : Word) (v : Byte) :
    (s.push v).readByte k = if s.stackAddr = k then v else s.readByte k :=
  readByte_writeByte s s.stackAddr k v

@[simp] theorem pulled_push_sp (s : State) (v : Byte) : (s.push v).pulled.sp = s.sp := by
  simp

/-- A pull after a push returns the pushed byte (20_memory.md R34). -/
@[simp] theorem pullValue_push (s : State) (v : Byte) : (s.push v).pullValue = v := by
  have h : (s.push v).pulled.stackAddr = s.stackAddr := by
    simp [stackAddr]
  rw [pullValue, h, readByte_pulled, readByte_push_same]

theorem pullValue_eq (s : State) : s.pullValue = s.readByte (word Config.stackPage (s.sp + 1#8)) := rfl

/-- A pulled return address: the second pulled byte over the first (20_memory.md R33). -/
theorem pullWordValue_eq (s : State) :
    s.pullWordValue = word (s.readByte (word Config.stackPage (s.sp + 2#8)))
      (s.readByte (word Config.stackPage (s.sp + 1#8))) := by
  rw [pullWordValue, pullValue_eq, pullValue_eq, readByte_pulled, pulled_sp, BitVec.add_assoc]
  rfl

theorem push_wf {s : State} (v : Byte) (h : s.mem.wf = true) : (s.push v).mem.wf = true :=
  writeByte_wf s.stackAddr v h

/-- What a pushed return address changes (44_branch_jump.md R103). -/
theorem pushWord_frame (s : State) (v : Word) :
    (s.pushWord v).a = s.a ∧ (s.pushWord v).x = s.x ∧ (s.pushWord v).y = s.y ∧
    (s.pushWord v).sp = s.sp - 2#8 ∧ (s.pushWord v).pc = s.pc ∧ (s.pushWord v).flags = s.flags := by
  simp [pushWord, BitVec.sub_sub]

theorem pushWord_wf {s : State} (v : Word) (h : s.mem.wf = true) : (s.pushWord v).mem.wf = true :=
  push_wf _ (push_wf _ h)

/-- Every byte outside the two pushed ones reads as before. -/
theorem readByte_pushWord_other (s : State) (v k : Word) (h0 : word Config.stackPage s.sp ≠ k)
    (h1 : word Config.stackPage (s.sp - 1#8) ≠ k) : (s.pushWord v).readByte k = s.readByte k := by
  rw [pushWord, readByte_push, if_neg (by exact h1), readByte_push, if_neg (by exact h0)]

/-! ## The loader -/

theorem loadProgram_frame (s : State) (bytes : List Byte) (base : Word) :
    (s.loadProgram bytes base).a = s.a ∧ (s.loadProgram bytes base).x = s.x ∧
    (s.loadProgram bytes base).y = s.y ∧ (s.loadProgram bytes base).sp = s.sp ∧
    (s.loadProgram bytes base).pc = s.pc ∧ (s.loadProgram bytes base).flags = s.flags := by
  induction bytes generalizing s base with
  | nil => exact ⟨rfl, rfl, rfl, rfl, rfl, rfl⟩
  | cons v rest ih => exact ih _ _

theorem loadProgram_wf {s : State} (bytes : List Byte) (base : Word) (h : s.mem.wf = true) :
    (s.loadProgram bytes base).mem.wf = true := by
  induction bytes generalizing s base with
  | nil => exact h
  | cons v rest ih => exact ih _ (writeByte_wf base v h)

/-! ## The trap -/

/-- What taking the trap does to the registers and flags (60_exceptions.md R136). -/
theorem takeTrap_frame (s : State) (ret vector : Word) :
    (s.takeTrap ret vector).a = s.a ∧ (s.takeTrap ret vector).x = s.x ∧
    (s.takeTrap ret vector).y = s.y ∧ (s.takeTrap ret vector).sp = s.sp - 3#8 ∧
    (s.takeTrap ret vector).flags = { s.flags with i := true, b := false } := by
  simp [takeTrap, pushWord, BitVec.sub_sub]

theorem takeTrap_wf {s : State} (ret vector : Word) (h : s.mem.wf = true) :
    (s.takeTrap ret vector).mem.wf = true := by
  have h2 : (s.pushWord ret).mem.wf = true := pushWord_wf ret h
  exact writeByte_wf _ _ h2

/-- Returning from the trap writes no memory and no register but SP and PC (60_exceptions.md R139). -/
theorem returnFromTrap_frame (s : State) :
    s.returnFromTrap.a = s.a ∧ s.returnFromTrap.x = s.x ∧ s.returnFromTrap.y = s.y ∧
    s.returnFromTrap.sp = s.sp + 3#8 ∧ s.returnFromTrap.mem = s.mem := by
  simp [returnFromTrap, pulledWord, BitVec.add_assoc]

end Sys2Proof.Machine.State
end

