-- ==== Sys2Proof/Laws/Operands.lean ====
section
/-! SUPPORT. What each operand form depends on, and the zero-page pointer as 40_addressing.md R65 writes
it. -/

namespace Sys2Proof.Machine

/-- The definition consults ZP_PTR_WRAP at 0xFF only; this is R65's own form. -/
theorem zpPtrFor_eq (wrap : Bool) (q : Byte) (s : State) :
    zpPtrFor wrap q s =
      word (s.readByte (if wrap then zext16 (q + 1#8) else zext16 q + 1#16)) (s.readByte (zext16 q)) := by
  by_cases h : q = 0xFF#8
  · subst h
    cases wrap <;> rfl
  · have hq : zext16 (q + 1#8) = zext16 q + 1#16 := by
      apply BitVec.eq_of_toNat_eq
      have h1 : q.toNat ≠ 255 := fun he => h (BitVec.eq_of_toNat_eq he)
      have h2 := q.isLt
      rw [zext16_toNat, BitVec.toNat_add, BitVec.toNat_add, zext16_toNat]
      simp only [BitVec.toNat_ofNat]
      omega
    simp only [zpPtrFor, if_neg h, hq, ite_self]

theorem zpPtr_congr {s t : State} (q : Byte) (hm : s.mem = t.mem) : zpPtr q s = zpPtr q t := by
  simp only [zpPtr, zpPtrFor, State.readByte, hm]

/-- An effective address depends on X, Y and memory only: not on PC, A, SP or a flag. -/
theorem effectiveAddr_congr {s t : State} (m : MemOperand) (hx : s.x = t.x) (hy : s.y = t.y)
    (hm : s.mem = t.mem) : effectiveAddr m s = effectiveAddr m t := by
  cases m <;> simp only [effectiveAddr, hx, hy, zpPtr_congr _ hm]

theorem memValue_congr {s t : State} (m : MemOperand) (hx : s.x = t.x) (hy : s.y = t.y)
    (hm : s.mem = t.mem) : memValue m s = memValue m t := by
  rw [memValue, memValue, effectiveAddr_congr m hx hy hm, State.readByte_congr hm]

theorem sourceValue_congr {s t : State} (src : Source) (hx : s.x = t.x) (hy : s.y = t.y)
    (hm : s.mem = t.mem) : sourceValue src s = sourceValue src t := by
  cases src with
  | immediate v => rfl
  | memory m => exact memValue_congr m hx hy hm

theorem shiftValue_congr {s t : State} (o : ShiftOperand) (ha : s.a = t.a) (hx : s.x = t.x)
    (hy : s.y = t.y) (hm : s.mem = t.mem) : shiftValue o s = shiftValue o t := by
  cases o with
  | accumulator => exact ha
  | memory m => exact memValue_congr m hx hy hm

theorem jumpTarget_congr {s t : State} (o : JumpOperand) (hm : s.mem = t.mem) :
    jumpTarget o s = jumpTarget o t := by
  cases o <;> simp only [jumpTarget, indirectTarget, State.readByte, hm]

/-- A branch changes PC only. -/
theorem branch_eq (cond : Bool) (disp : Byte) (s : State) :
    branch cond disp s = s.setPc (if cond then s.pc + sext16 disp else s.pc) := by
  cases cond <;> rfl

theorem writeBack_wf {s : State} (o : ShiftOperand) (r : Byte) (h : s.mem.wf = true) :
    (writeBack o r s).mem.wf = true := by
  cases o with
  | accumulator => exact h
  | memory m => exact State.writeByte_wf _ r h

end Sys2Proof.Machine
end

