-- ==== Sys2Proof/Laws/Exec.lean ====
section
/-! SUPPORT. What exec answers, one equation per constructor, and that it always answers a next state. -/

namespace Sys2Proof.Machine

@[simp] theorem exec_adc (src : Source) (s : State) :
    exec (.adc src) s = .next (addToA (sourceValue src s) (s.advance (1 + sourceSize src))) := rfl
@[simp] theorem exec_sbc (src : Source) (s : State) :
    exec (.sbc src) s = .next (addToA (~~~ sourceValue src s) (s.advance (1 + sourceSize src))) := rfl
@[simp] theorem exec_and (src : Source) (s : State) :
    exec (.and src) s = .next (resultToA (s.a &&& sourceValue src s) (s.advance (1 + sourceSize src))) := rfl
@[simp] theorem exec_ora (src : Source) (s : State) :
    exec (.ora src) s = .next (resultToA (s.a ||| sourceValue src s) (s.advance (1 + sourceSize src))) := rfl
@[simp] theorem exec_eor (src : Source) (s : State) :
    exec (.eor src) s = .next (resultToA (s.a ^^^ sourceValue src s) (s.advance (1 + sourceSize src))) := rfl
@[simp] theorem exec_bit (m : MemOperand) (s : State) :
    exec (.bit m) s = .next ((s.advance (1 + memSize m)).setFlags (s.flags.afterBit s.a (memValue m s))) := rfl
@[simp] theorem exec_asl (t : ShiftOperand) (s : State) :
    exec (.asl t) s = .next (finishShift t ((shiftValue t s).getLsbD 7) (aslResult (shiftValue t s)) s) := rfl
@[simp] theorem exec_lsr (t : ShiftOperand) (s : State) :
    exec (.lsr t) s = .next (finishShift t ((shiftValue t s).getLsbD 0) (lsrResult (shiftValue t s)) s) := rfl
@[simp] theorem exec_rol (t : ShiftOperand) (s : State) :
    exec (.rol t) s = .next (finishShift t ((shiftValue t s).getLsbD 7) (rolResult (shiftValue t s) s.flags.c) s) := rfl
@[simp] theorem exec_ror (t : ShiftOperand) (s : State) :
    exec (.ror t) s = .next (finishShift t ((shiftValue t s).getLsbD 0) (rorResult (shiftValue t s) s.flags.c) s) := rfl
@[simp] theorem exec_cmp (src : Source) (s : State) :
    exec (.cmp src) s = .next (compare s.a (sourceValue src s) (s.advance (1 + sourceSize src))) := rfl
@[simp] theorem exec_cpx (src : Source) (s : State) :
    exec (.cpx src) s = .next (compare s.x (sourceValue src s) (s.advance (1 + sourceSize src))) := rfl
@[simp] theorem exec_cpy (src : Source) (s : State) :
    exec (.cpy src) s = .next (compare s.y (sourceValue src s) (s.advance (1 + sourceSize src))) := rfl
@[simp] theorem exec_inc (m : MemOperand) (s : State) :
    exec (.inc m) s = .next (resultToMemory m (memValue m s + 1#8) s) := rfl
@[simp] theorem exec_dec (m : MemOperand) (s : State) :
    exec (.dec m) s = .next (resultToMemory m (memValue m s - 1#8) s) := rfl
@[simp] theorem exec_inx (s : State) :
    exec .inx s = .next (((s.advance 1).setX (s.x + 1#8)).setZN (s.x + 1#8)) := rfl
@[simp] theorem exec_iny (s : State) :
    exec .iny s = .next (((s.advance 1).setY (s.y + 1#8)).setZN (s.y + 1#8)) := rfl
@[simp] theorem exec_dex (s : State) :
    exec .dex s = .next (((s.advance 1).setX (s.x - 1#8)).setZN (s.x - 1#8)) := rfl
@[simp] theorem exec_dey (s : State) :
    exec .dey s = .next (((s.advance 1).setY (s.y - 1#8)).setZN (s.y - 1#8)) := rfl
@[simp] theorem exec_bpl (disp : Byte) (s : State) :
    exec (.bpl disp) s = .next (branch (!s.flags.n) disp (s.advance 2)) := rfl
@[simp] theorem exec_bmi (disp : Byte) (s : State) :
    exec (.bmi disp) s = .next (branch s.flags.n disp (s.advance 2)) := rfl
@[simp] theorem exec_bvc (disp : Byte) (s : State) :
    exec (.bvc disp) s = .next (branch (!s.flags.v) disp (s.advance 2)) := rfl
@[simp] theorem exec_bvs (disp : Byte) (s : State) :
    exec (.bvs disp) s = .next (branch s.flags.v disp (s.advance 2)) := rfl
@[simp] theorem exec_bcc (disp : Byte) (s : State) :
    exec (.bcc disp) s = .next (branch (!s.flags.c) disp (s.advance 2)) := rfl
@[simp] theorem exec_bcs (disp : Byte) (s : State) :
    exec (.bcs disp) s = .next (branch s.flags.c disp (s.advance 2)) := rfl
@[simp] theorem exec_bne (disp : Byte) (s : State) :
    exec (.bne disp) s = .next (branch (!s.flags.z) disp (s.advance 2)) := rfl
@[simp] theorem exec_beq (disp : Byte) (s : State) :
    exec (.beq disp) s = .next (branch s.flags.z disp (s.advance 2)) := rfl
@[simp] theorem exec_jmp (t : JumpOperand) (s : State) :
    exec (.jmp t) s = .next (s.setPc (jumpTarget t s)) := rfl
@[simp] theorem exec_jsr (target : Word) (s : State) :
    exec (.jsr target) s = .next (((s.advance 3).pushWord ((s.advance 3).pc - 1#16)).setPc target) := rfl
@[simp] theorem exec_rts (s : State) :
    exec .rts s = .next (s.pulledWord.setPc (s.pullWordValue + 1#16)) := rfl
@[simp] theorem exec_pha (s : State) :
    exec .pha s = .next ((s.advance 1).push s.a) := rfl
@[simp] theorem exec_pla (s : State) :
    exec .pla s = .next (((s.advance 1).pulled.setA s.pullValue).setZN s.pullValue) := rfl
@[simp] theorem exec_php (s : State) :
    exec .php s = .next ((s.advance 1).push s.flags.pushed) := rfl
@[simp] theorem exec_plp (s : State) :
    exec .plp s = .next ((s.advance 1).pulled.setFlags { Flags.unpack s.pullValue with u := true }) := rfl
@[simp] theorem exec_clc (s : State) :
    exec .clc s = .next ((s.advance 1).setFlags { s.flags with c := false }) := rfl
@[simp] theorem exec_sec (s : State) :
    exec .sec s = .next ((s.advance 1).setFlags { s.flags with c := true }) := rfl
@[simp] theorem exec_cli (s : State) :
    exec .cli s = .next ((s.advance 1).setFlags { s.flags with i := false }) := rfl
@[simp] theorem exec_sei (s : State) :
    exec .sei s = .next ((s.advance 1).setFlags { s.flags with i := true }) := rfl
@[simp] theorem exec_cld (s : State) :
    exec .cld s = .next ((s.advance 1).setFlags { s.flags with d := false }) := rfl
@[simp] theorem exec_sed (s : State) :
    exec .sed s = .next ((s.advance 1).setFlags { s.flags with d := true }) := rfl
@[simp] theorem exec_clv (s : State) :
    exec .clv s = .next ((s.advance 1).setFlags { s.flags with v := false }) := rfl
@[simp] theorem exec_tax (s : State) :
    exec .tax s = .next (((s.advance 1).setX s.a).setZN s.a) := rfl
@[simp] theorem exec_tay (s : State) :
    exec .tay s = .next (((s.advance 1).setY s.a).setZN s.a) := rfl
@[simp] theorem exec_txa (s : State) :
    exec .txa s = .next (((s.advance 1).setA s.x).setZN s.x) := rfl
@[simp] theorem exec_tya (s : State) :
    exec .tya s = .next (((s.advance 1).setA s.y).setZN s.y) := rfl
@[simp] theorem exec_tsx (s : State) :
    exec .tsx s = .next (((s.advance 1).setX s.sp).setZN s.sp) := rfl
@[simp] theorem exec_txs (s : State) :
    exec .txs s = .next (((s.advance 1).setSp s.x).setZN s.x) := rfl
@[simp] theorem exec_brk (s : State) :
    exec .brk s = .next ((s.advance 2).takeTrap (s.advance 2).pc Config.brkVector) := rfl
@[simp] theorem exec_rti (s : State) :
    exec .rti s = .next s.returnFromTrap := rfl
@[simp] theorem exec_lda (src : Source) (s : State) :
    exec (.lda src) s = .next (((s.advance (1 + sourceSize src)).setA (sourceValue src s)).setZN (sourceValue src s)) := rfl
@[simp] theorem exec_ldx (src : Source) (s : State) :
    exec (.ldx src) s = .next (((s.advance (1 + sourceSize src)).setX (sourceValue src s)).setZN (sourceValue src s)) := rfl
@[simp] theorem exec_ldy (src : Source) (s : State) :
    exec (.ldy src) s = .next (((s.advance (1 + sourceSize src)).setY (sourceValue src s)).setZN (sourceValue src s)) := rfl
@[simp] theorem exec_sta (m : MemOperand) (s : State) :
    exec (.sta m) s = .next (storeByte m s.a s) := rfl
@[simp] theorem exec_stx (m : MemOperand) (s : State) :
    exec (.stx m) s = .next (storeByte m s.x s) := rfl
@[simp] theorem exec_sty (m : MemOperand) (s : State) :
    exec (.sty m) s = .next (storeByte m s.y s) := rfl
@[simp] theorem exec_nop (s : State) :
    exec .nop s = .next (s.advance 1) := rfl
@[simp] theorem exec_undocumented (opcode : Byte) (s : State) :
    exec (.undocumented opcode) s = .next (s.advance 1) := rfl

/-- Every instruction answers a next state in every state: nothing faults or is refused
(60_exceptions.md R135). -/
theorem exec_completes (i : Instr) (s : State) : ∃ t, exec i s = .next t := by
  cases i <;> exact ⟨_, rfl⟩

/-- The next state exec answers. -/
def nextState (i : Instr) (s : State) : State :=
  match exec i s with
  | .next t => t
  | _ => s

/-- exec is the answer of its next state: a claim about exec is a claim about `nextState`. -/
theorem exec_eq_next (i : Instr) (s : State) : exec i s = .next (nextState i s) := by
  cases i <;> rfl

theorem eq_nextState {i : Instr} {s t : State} (h : exec i s = .next t) : t = nextState i s := by
  rw [exec_eq_next] at h
  exact (Host.Outcome.next.inj h).symm

end Sys2Proof.Machine
end

