-- ==== Sys2Proof/Laws/Families.lean ====
section
/-! SUPPORT. The shared bodies of the instruction families, field by field. -/

namespace Sys2Proof.Machine

/-! ADC and SBC. -/

@[simp] theorem addToA_a (m : Byte) (s : State) :
    (addToA m s).a = addResult s.a m s.flags.c := rfl
@[simp] theorem addToA_x (m : Byte) (s : State) :
    (addToA m s).x = s.x := rfl
@[simp] theorem addToA_y (m : Byte) (s : State) :
    (addToA m s).y = s.y := rfl
@[simp] theorem addToA_sp (m : Byte) (s : State) :
    (addToA m s).sp = s.sp := rfl
@[simp] theorem addToA_pc (m : Byte) (s : State) :
    (addToA m s).pc = s.pc := rfl
@[simp] theorem addToA_flags (m : Byte) (s : State) :
    (addToA m s).flags = s.flags.afterAdd s.a m := rfl
@[simp] theorem addToA_mem (m : Byte) (s : State) :
    (addToA m s).mem = s.mem := rfl

/-! AND, ORA and EOR. -/

@[simp] theorem resultToA_a (r : Byte) (s : State) :
    (resultToA r s).a = r := rfl
@[simp] theorem resultToA_x (r : Byte) (s : State) :
    (resultToA r s).x = s.x := rfl
@[simp] theorem resultToA_y (r : Byte) (s : State) :
    (resultToA r s).y = s.y := rfl
@[simp] theorem resultToA_sp (r : Byte) (s : State) :
    (resultToA r s).sp = s.sp := rfl
@[simp] theorem resultToA_pc (r : Byte) (s : State) :
    (resultToA r s).pc = s.pc := rfl
@[simp] theorem resultToA_flags (r : Byte) (s : State) :
    (resultToA r s).flags = s.flags.setZN r := rfl
@[simp] theorem resultToA_mem (r : Byte) (s : State) :
    (resultToA r s).mem = s.mem := rfl

/-! CMP, CPX and CPY. -/

@[simp] theorem compare_a (reg m : Byte) (s : State) :
    (compare reg m s).a = s.a := rfl
@[simp] theorem compare_x (reg m : Byte) (s : State) :
    (compare reg m s).x = s.x := rfl
@[simp] theorem compare_y (reg m : Byte) (s : State) :
    (compare reg m s).y = s.y := rfl
@[simp] theorem compare_sp (reg m : Byte) (s : State) :
    (compare reg m s).sp = s.sp := rfl
@[simp] theorem compare_pc (reg m : Byte) (s : State) :
    (compare reg m s).pc = s.pc := rfl
@[simp] theorem compare_flags (reg m : Byte) (s : State) :
    (compare reg m s).flags = s.flags.afterCompare reg m := rfl
@[simp] theorem compare_mem (reg m : Byte) (s : State) :
    (compare reg m s).mem = s.mem := rfl

/-! INC and DEC. -/

@[simp] theorem resultToMemory_a (m : MemOperand) (r : Byte) (s : State) :
    (resultToMemory m r s).a = s.a := rfl
@[simp] theorem resultToMemory_x (m : MemOperand) (r : Byte) (s : State) :
    (resultToMemory m r s).x = s.x := rfl
@[simp] theorem resultToMemory_y (m : MemOperand) (r : Byte) (s : State) :
    (resultToMemory m r s).y = s.y := rfl
@[simp] theorem resultToMemory_sp (m : MemOperand) (r : Byte) (s : State) :
    (resultToMemory m r s).sp = s.sp := rfl
@[simp] theorem resultToMemory_pc (m : MemOperand) (r : Byte) (s : State) :
    (resultToMemory m r s).pc = s.pc + BitVec.ofNat 16 (1 + memSize m) := rfl
@[simp] theorem resultToMemory_flags (m : MemOperand) (r : Byte) (s : State) :
    (resultToMemory m r s).flags = s.flags.setZN r := rfl
@[simp] theorem resultToMemory_mem (m : MemOperand) (r : Byte) (s : State) :
    (resultToMemory m r s).mem = s.mem.write (effectiveAddr m s).toNat r := rfl

/-! STA, STX and STY. -/

@[simp] theorem storeByte_a (m : MemOperand) (v : Byte) (s : State) :
    (storeByte m v s).a = s.a := rfl
@[simp] theorem storeByte_x (m : MemOperand) (v : Byte) (s : State) :
    (storeByte m v s).x = s.x := rfl
@[simp] theorem storeByte_y (m : MemOperand) (v : Byte) (s : State) :
    (storeByte m v s).y = s.y := rfl
@[simp] theorem storeByte_sp (m : MemOperand) (v : Byte) (s : State) :
    (storeByte m v s).sp = s.sp := rfl
@[simp] theorem storeByte_pc (m : MemOperand) (v : Byte) (s : State) :
    (storeByte m v s).pc = s.pc + BitVec.ofNat 16 (1 + memSize m) := rfl
@[simp] theorem storeByte_flags (m : MemOperand) (v : Byte) (s : State) :
    (storeByte m v s).flags = s.flags := rfl
@[simp] theorem storeByte_mem (m : MemOperand) (v : Byte) (s : State) :
    (storeByte m v s).mem = s.mem.write (effectiveAddr m s).toNat v := rfl

/-! The branches. -/

@[simp] theorem branch_a (cond : Bool) (disp : Byte) (s : State) :
    (branch cond disp s).a = s.a := by cases cond <;> rfl
@[simp] theorem branch_x (cond : Bool) (disp : Byte) (s : State) :
    (branch cond disp s).x = s.x := by cases cond <;> rfl
@[simp] theorem branch_y (cond : Bool) (disp : Byte) (s : State) :
    (branch cond disp s).y = s.y := by cases cond <;> rfl
@[simp] theorem branch_sp (cond : Bool) (disp : Byte) (s : State) :
    (branch cond disp s).sp = s.sp := by cases cond <;> rfl
@[simp] theorem branch_pc (cond : Bool) (disp : Byte) (s : State) :
    (branch cond disp s).pc = if cond then s.pc + sext16 disp else s.pc := by cases cond <;> rfl
@[simp] theorem branch_flags (cond : Bool) (disp : Byte) (s : State) :
    (branch cond disp s).flags = s.flags := by cases cond <;> rfl
@[simp] theorem branch_mem (cond : Bool) (disp : Byte) (s : State) :
    (branch cond disp s).mem = s.mem := by cases cond <;> rfl

/-! `WriteBack(r)` of the shifts. -/

@[simp] theorem writeBack_a (t : ShiftOperand) (r : Byte) (s : State) :
    (writeBack t r s).a = match t with | .accumulator => r | .memory _ => s.a := by cases t <;> rfl
@[simp] theorem writeBack_x (t : ShiftOperand) (r : Byte) (s : State) :
    (writeBack t r s).x = s.x := by cases t <;> rfl
@[simp] theorem writeBack_y (t : ShiftOperand) (r : Byte) (s : State) :
    (writeBack t r s).y = s.y := by cases t <;> rfl
@[simp] theorem writeBack_sp (t : ShiftOperand) (r : Byte) (s : State) :
    (writeBack t r s).sp = s.sp := by cases t <;> rfl
@[simp] theorem writeBack_pc (t : ShiftOperand) (r : Byte) (s : State) :
    (writeBack t r s).pc = s.pc := by cases t <;> rfl
@[simp] theorem writeBack_flags (t : ShiftOperand) (r : Byte) (s : State) :
    (writeBack t r s).flags = s.flags := by cases t <;> rfl
@[simp] theorem writeBack_mem (t : ShiftOperand) (r : Byte) (s : State) :
    (writeBack t r s).mem = match t with | .accumulator => s.mem | .memory m => s.mem.write (effectiveAddr m s).toNat r := by cases t <;> rfl

/-! The shifts and rotates. -/

@[simp] theorem finishShift_a (t : ShiftOperand) (out : Bool) (r : Byte) (s : State) :
    (finishShift t out r s).a = match t with | .accumulator => r | .memory _ => s.a := by cases t <;> rfl
@[simp] theorem finishShift_x (t : ShiftOperand) (out : Bool) (r : Byte) (s : State) :
    (finishShift t out r s).x = s.x := by cases t <;> rfl
@[simp] theorem finishShift_y (t : ShiftOperand) (out : Bool) (r : Byte) (s : State) :
    (finishShift t out r s).y = s.y := by cases t <;> rfl
@[simp] theorem finishShift_sp (t : ShiftOperand) (out : Bool) (r : Byte) (s : State) :
    (finishShift t out r s).sp = s.sp := by cases t <;> rfl
@[simp] theorem finishShift_pc (t : ShiftOperand) (out : Bool) (r : Byte) (s : State) :
    (finishShift t out r s).pc = s.pc + BitVec.ofNat 16 (1 + shiftSize t) := by cases t <;> rfl
@[simp] theorem finishShift_flags (t : ShiftOperand) (out : Bool) (r : Byte) (s : State) :
    (finishShift t out r s).flags = s.flags.afterShift out r := by cases t <;> rfl
@[simp] theorem finishShift_mem (t : ShiftOperand) (out : Bool) (r : Byte) (s : State) :
    (finishShift t out r s).mem = match t with | .accumulator => s.mem | .memory m => s.mem.write (effectiveAddr m s).toNat r := by cases t <;> rfl

/-! A pushed return address. -/

@[simp] theorem State.pushWord_a (s : State) (v : Word) :
    (s.pushWord v).a = s.a := rfl
@[simp] theorem State.pushWord_x (v : Word) (s : State) :
    (s.pushWord v).x = s.x := rfl
@[simp] theorem State.pushWord_y (v : Word) (s : State) :
    (s.pushWord v).y = s.y := rfl
@[simp] theorem State.pushWord_sp (v : Word) (s : State) :
    (s.pushWord v).sp = s.sp - 1#8 - 1#8 := rfl
@[simp] theorem State.pushWord_pc (v : Word) (s : State) :
    (s.pushWord v).pc = s.pc := rfl
@[simp] theorem State.pushWord_flags (v : Word) (s : State) :
    (s.pushWord v).flags = s.flags := rfl
@[simp] theorem State.pushWord_mem (v : Word) (s : State) :
    (s.pushWord v).mem = (s.push (highByte v)).mem.write (s.push (highByte v)).stackAddr.toNat (lowByte v) := rfl

/-! A pulled return address. -/

@[simp] theorem State.pulledWord_a (s : State) :
    (s.pulledWord).a = s.a := rfl
@[simp] theorem State.pulledWord_x (s : State) :
    (s.pulledWord).x = s.x := rfl
@[simp] theorem State.pulledWord_y (s : State) :
    (s.pulledWord).y = s.y := rfl
@[simp] theorem State.pulledWord_sp (s : State) :
    (s.pulledWord).sp = s.sp + 1#8 + 1#8 := rfl
@[simp] theorem State.pulledWord_pc (s : State) :
    (s.pulledWord).pc = s.pc := rfl
@[simp] theorem State.pulledWord_flags (s : State) :
    (s.pulledWord).flags = s.flags := rfl
@[simp] theorem State.pulledWord_mem (s : State) :
    (s.pulledWord).mem = s.mem := rfl

end Sys2Proof.Machine
end

