-- ==== Sys2Proof/Laws/HostPort.lean ====
section
/-! SUPPORT. A step always answers a next state, and exec_n is the run of the host's interface. -/

namespace Sys2Proof.Machine

/-- A step is exec of the fetched instruction. -/
theorem step_eq (s : State) : step s = exec (fetchInstr s) s := rfl

theorem hostExecN_zero (s : State) : hostExecN 0 s = .next s := rfl

theorem hostExecN_succ {s t : State} (k : Nat) (h : step s = .next t) :
    hostExecN (k + 1) s = hostExecN k t := by
  rw [hostExecN, h]

/-- One more step of the host interface's run. -/
theorem run_succ_of_next (M : Host.Core) {s t : M.State} (k : Nat) (h : M.step s = .next t) :
    M.run (k + 1) s = M.run k t := by
  rw [Host.Core.run, h]

/-- exec_n is `Host.Core.run` of the machine. -/
theorem hostExecN_eq_run (k : Nat) (s : State) : hostExecN k s = Sys2Proof.core.run k s := by
  induction k generalizing s with
  | zero => rfl
  | succ k ih =>
    obtain ⟨t, ht⟩ := exec_completes (fetchInstr s) s
    have hs : step s = .next t := ht
    have hc : Sys2Proof.core.step s = .next t := ht
    rw [hostExecN_succ k hs, ih t]
    exact (run_succ_of_next Sys2Proof.core k hc).symm

end Sys2Proof.Machine
end

