-- ==== Sys2Proof/Laws/Length.lean ====
section
/-! SUPPORT. The bytes a mode consumes are the bytes the encoding gives it. -/

namespace Sys2Proof.Machine

@[simp] theorem length_memBytes (m : MemOperand) : m.bytes.length = memSize m := by
  cases m <;> rfl

@[simp] theorem length_sourceBytes (src : Source) : src.bytes.length = sourceSize src := by
  cases src with
  | immediate v => rfl
  | memory m => exact length_memBytes m

@[simp] theorem length_shiftBytes (t : ShiftOperand) : t.bytes.length = shiftSize t := by
  cases t with
  | accumulator => rfl
  | memory m => exact length_memBytes m

theorem memSize_bounds (m : MemOperand) : 1 ≤ memSize m ∧ memSize m ≤ 2 := by
  cases m <;> simp [memSize]

end Sys2Proof.Machine
end

