-- ==== Sys2Proof/Laws/PerInstr.lean ====
section
/-! SUPPORT. Family Encodes: WellFormed.lean and the encoder's tables admit the same operand forms, one
lemma per constructor. The first is written from 40_addressing.md R68, the tables from the rules' own
Encoding tables. -/

namespace Sys2Proof.Laws.Encodes

/-- An instruction is well-formed exactly when its rule's Encoding table gives it an opcode. -/
def Statement (i : Instr) : Prop := i.wellFormed = i.opcode.isSome

theorem adc (src : Source) : Statement (.adc src) := by
  rcases src with _ | m
  · rfl
  · cases m <;> rfl
theorem sbc (src : Source) : Statement (.sbc src) := by
  rcases src with _ | m
  · rfl
  · cases m <;> rfl
theorem and (src : Source) : Statement (.and src) := by
  rcases src with _ | m
  · rfl
  · cases m <;> rfl
theorem ora (src : Source) : Statement (.ora src) := by
  rcases src with _ | m
  · rfl
  · cases m <;> rfl
theorem eor (src : Source) : Statement (.eor src) := by
  rcases src with _ | m
  · rfl
  · cases m <;> rfl
theorem bit (operand : MemOperand) : Statement (.bit operand) := by
  cases operand <;> rfl
theorem asl (operand : ShiftOperand) : Statement (.asl operand) := by
  rcases operand with _ | m
  · rfl
  · cases m <;> rfl
theorem lsr (operand : ShiftOperand) : Statement (.lsr operand) := by
  rcases operand with _ | m
  · rfl
  · cases m <;> rfl
theorem rol (operand : ShiftOperand) : Statement (.rol operand) := by
  rcases operand with _ | m
  · rfl
  · cases m <;> rfl
theorem ror (operand : ShiftOperand) : Statement (.ror operand) := by
  rcases operand with _ | m
  · rfl
  · cases m <;> rfl
theorem cmp (src : Source) : Statement (.cmp src) := by
  rcases src with _ | m
  · rfl
  · cases m <;> rfl
theorem cpx (src : Source) : Statement (.cpx src) := by
  rcases src with _ | m
  · rfl
  · cases m <;> rfl
theorem cpy (src : Source) : Statement (.cpy src) := by
  rcases src with _ | m
  · rfl
  · cases m <;> rfl
theorem inc (operand : MemOperand) : Statement (.inc operand) := by
  cases operand <;> rfl
theorem dec (operand : MemOperand) : Statement (.dec operand) := by
  cases operand <;> rfl
theorem inx : Statement .inx := rfl
theorem iny : Statement .iny := rfl
theorem dex : Statement .dex := rfl
theorem dey : Statement .dey := rfl
theorem bpl (disp : Byte) : Statement (.bpl disp) := rfl
theorem bmi (disp : Byte) : Statement (.bmi disp) := rfl
theorem bvc (disp : Byte) : Statement (.bvc disp) := rfl
theorem bvs (disp : Byte) : Statement (.bvs disp) := rfl
theorem bcc (disp : Byte) : Statement (.bcc disp) := rfl
theorem bcs (disp : Byte) : Statement (.bcs disp) := rfl
theorem bne (disp : Byte) : Statement (.bne disp) := rfl
theorem beq (disp : Byte) : Statement (.beq disp) := rfl
theorem jmp (operand : JumpOperand) : Statement (.jmp operand) := by
  cases operand <;> rfl
theorem jsr (target : Word) : Statement (.jsr target) := rfl
theorem rts : Statement .rts := rfl
theorem pha : Statement .pha := rfl
theorem pla : Statement .pla := rfl
theorem php : Statement .php := rfl
theorem plp : Statement .plp := rfl
theorem clc : Statement .clc := rfl
theorem sec : Statement .sec := rfl
theorem cli : Statement .cli := rfl
theorem sei : Statement .sei := rfl
theorem cld : Statement .cld := rfl
theorem sed : Statement .sed := rfl
theorem clv : Statement .clv := rfl
theorem tax : Statement .tax := rfl
theorem tay : Statement .tay := rfl
theorem txa : Statement .txa := rfl
theorem tya : Statement .tya := rfl
theorem tsx : Statement .tsx := rfl
theorem txs : Statement .txs := rfl
theorem brk : Statement .brk := rfl
theorem rti : Statement .rti := rfl
theorem lda (src : Source) : Statement (.lda src) := by
  rcases src with _ | m
  · rfl
  · cases m <;> rfl
theorem ldx (src : Source) : Statement (.ldx src) := by
  rcases src with _ | m
  · rfl
  · cases m <;> rfl
theorem ldy (src : Source) : Statement (.ldy src) := by
  rcases src with _ | m
  · rfl
  · cases m <;> rfl
theorem sta (operand : MemOperand) : Statement (.sta operand) := by
  cases operand <;> rfl
theorem stx (operand : MemOperand) : Statement (.stx operand) := by
  cases operand <;> rfl
theorem sty (operand : MemOperand) : Statement (.sty operand) := by
  cases operand <;> rfl
theorem nop : Statement .nop := rfl
theorem undocumented (opcode : Byte) : Statement (.undocumented opcode) := by
  by_cases h : undocumentedOpcodes.contains opcode = true
  · simp only [Statement, Instr.wellFormed, Instr.opcodeAdmitted, Instr.opcode, Instr.encodingTable, h]
    rfl
  · simp only [Statement, Instr.wellFormed, Instr.opcodeAdmitted, Instr.opcode, Instr.encodingTable, h]
    rfl

end Sys2Proof.Laws.Encodes
end

