-- ==== Sys2Proof/Tests/Slice0.lean ====
section
/-! SUPPORT. The model's own tests: ill-formed terms refused, words written out from the spec's encodings,
one step of each instruction on the vectors of 95_test_vectors.md, and a state that meets the
hypotheses of each statement. Expected results come from the spec. -/

namespace Sys2Proof.Tests

open Sys2Proof Sys2Proof.Machine

/-- A state with these bytes of memory, and then the bytes of a program at its PC. -/
def start (s : State) (mem : List (Word × Byte)) (code : List Byte) : State :=
  (s.writeAll mem).loadProgram code s.pc

/-- One step answers a next state, and the check holds of it. -/
def afterStep (s : State) (check : State → Bool) : Bool :=
  match step s with
  | .next t => check t
  | .fault _ => false
  | .refused _ => false

/-! ## Ill-formed terms (40_addressing.md R68; 30_encoding.md R53) -/

/-- One addressing mode that each group of mnemonics does not have. -/
theorem test_illformed_modes :
    [Instr.adc (.memory (.zeroPageY 0x10)), .sbc (.memory (.zeroPageY 0x10)),
      .and (.memory (.zeroPageY 0x10)), .ora (.memory (.zeroPageY 0x10)),
      .eor (.memory (.zeroPageY 0x10)), .cmp (.memory (.zeroPageY 0x10)),
      .lda (.memory (.zeroPageY 0x10)), .cpx (.memory (.zeroPageX 0x10)),
      .cpy (.memory (.absoluteX 0x1234)), .bit (.absoluteX 0x1234),
      .ldx (.memory (.zeroPageX 0x10)), .ldy (.memory (.zeroPageY 0x10)), .sta (.zeroPageY 0x10),
      .stx (.absoluteY 0x1234), .sty (.absoluteX 0x1234), .asl (.memory (.absoluteY 0x1234)),
      .lsr (.memory (.zeroPageY 0x10)), .rol (.memory (.indexedIndirectX 0x10)),
      .ror (.memory (.indirectIndexedY 0x10)), .inc (.absoluteY 0x1234),
      .dec (.zeroPageY 0x10)].all (fun i => !i.wellFormed) := by decide

/-- A placeholder may not carry a documented opcode byte, here those of ADC #, BRK and NOP. -/
theorem test_illformed_opcodes :
    [Instr.undocumented 0x69, .undocumented 0x00, .undocumented 0xEA].all
      (fun i => !i.wellFormed) := by decide

/-- An ill-formed term has no bytes. -/
theorem test_illformed_not_encoded :
    encode (.sta (.zeroPageY 0x10)) = [] ∧ encode (.undocumented 0x69) = [] := by decide

/-! ## Words from the spec's encodings (the Encoding tables of files 41 to 49) -/

theorem test_words_arith :
    decode [0x71, 0x40] = .ok (.adc (.memory (.indirectIndexedY 0x40)), []) ∧
    decode [0xED, 0x34, 0x12] = .ok (.sbc (.memory (.absolute 0x1234)), []) ∧
    decode [0x39, 0x34, 0x12] = .ok (.and (.memory (.absoluteY 0x1234)), []) ∧
    decode [0x01, 0x20] = .ok (.ora (.memory (.indexedIndirectX 0x20)), []) ∧
    decode [0x49, 0xFF] = .ok (.eor (.immediate 0xFF), []) ∧
    decode [0x2C, 0x34, 0x12] = .ok (.bit (.absolute 0x1234), []) := ⟨rfl, rfl, rfl, rfl, rfl, rfl⟩

theorem test_words_shift :
    decode [0x0A, 0x10] = .ok (.asl .accumulator, [0x10]) ∧
    decode [0x56, 0x10] = .ok (.lsr (.memory (.zeroPageX 0x10)), []) ∧
    decode [0x2E, 0x34, 0x12] = .ok (.rol (.memory (.absolute 0x1234)), []) ∧
    decode [0x66, 0x10] = .ok (.ror (.memory (.zeroPage 0x10)), []) := ⟨rfl, rfl, rfl, rfl⟩

theorem test_words_compare :
    decode [0xDD, 0x34, 0x12] = .ok (.cmp (.memory (.absoluteX 0x1234)), []) ∧
    decode [0xE0, 0x0A] = .ok (.cpx (.immediate 0x0A), []) ∧
    decode [0xC4, 0x20] = .ok (.cpy (.memory (.zeroPage 0x20)), []) ∧
    decode [0xFE, 0x34, 0x12] = .ok (.inc (.absoluteX 0x1234), []) ∧
    decode [0xD6, 0x10] = .ok (.dec (.zeroPageX 0x10), []) ∧
    decode [0xE8] = .ok (.inx, []) ∧ decode [0xC8] = .ok (.iny, []) ∧
    decode [0xCA] = .ok (.dex, []) ∧ decode [0x88] = .ok (.dey, []) :=
  ⟨rfl, rfl, rfl, rfl, rfl, rfl, rfl, rfl, rfl⟩

theorem test_words_jump :
    decode [0x10, 0x04] = .ok (.bpl 0x04, []) ∧ decode [0x30, 0x04] = .ok (.bmi 0x04, []) ∧
    decode [0x50, 0xFE] = .ok (.bvc 0xFE, []) ∧ decode [0x70, 0x80] = .ok (.bvs 0x80, []) ∧
    decode [0x90, 0x00] = .ok (.bcc 0x00, []) ∧ decode [0xB0, 0x7F] = .ok (.bcs 0x7F, []) ∧
    decode [0xD0, 0xFA] = .ok (.bne 0xFA, []) ∧ decode [0xF0, 0x10] = .ok (.beq 0x10, []) ∧
    decode [0x4C, 0x34, 0x12] = .ok (.jmp (.absolute 0x1234), []) ∧
    decode [0x6C, 0xFF, 0x30] = .ok (.jmp (.indirect 0x30FF), []) ∧
    decode [0x20, 0x03, 0x10] = .ok (.jsr 0x1003, []) ∧ decode [0x60] = .ok (.rts, []) :=
  ⟨rfl, rfl, rfl, rfl, rfl, rfl, rfl, rfl, rfl, rfl, rfl, rfl⟩

theorem test_words_stack :
    decode [0x48] = .ok (.pha, []) ∧ decode [0x68] = .ok (.pla, []) ∧
    decode [0x08] = .ok (.php, []) ∧ decode [0x28] = .ok (.plp, []) := ⟨rfl, rfl, rfl, rfl⟩

theorem test_words_flags_transfer :
    decode [0x18] = .ok (.clc, []) ∧ decode [0x38] = .ok (.sec, []) ∧
    decode [0x58] = .ok (.cli, []) ∧ decode [0x78] = .ok (.sei, []) ∧
    decode [0xD8] = .ok (.cld, []) ∧ decode [0xF8] = .ok (.sed, []) ∧
    decode [0xB8] = .ok (.clv, []) ∧ decode [0xAA] = .ok (.tax, []) ∧
    decode [0xA8] = .ok (.tay, []) ∧ decode [0x8A] = .ok (.txa, []) ∧
    decode [0x98] = .ok (.tya, []) ∧ decode [0xBA] = .ok (.tsx, []) ∧
    decode [0x9A] = .ok (.txs, []) :=
  ⟨rfl, rfl, rfl, rfl, rfl, rfl, rfl, rfl, rfl, rfl, rfl, rfl, rfl⟩

theorem test_words_interrupt :
    decode [0x00] = .ok (.brk, []) ∧ decode [0x40] = .ok (.rti, []) := ⟨rfl, rfl⟩

theorem test_words_load_store :
    decode [0xBD, 0xF0, 0xFF] = .ok (.lda (.memory (.absoluteX 0xFFF0)), []) ∧
    decode [0xB6, 0x80] = .ok (.ldx (.memory (.zeroPageY 0x80)), []) ∧
    decode [0xBC, 0x34, 0x12] = .ok (.ldy (.memory (.absoluteX 0x1234)), []) ∧
    decode [0x91, 0x40] = .ok (.sta (.indirectIndexedY 0x40), []) ∧
    decode [0x96, 0xFF] = .ok (.stx (.zeroPageY 0xFF), []) ∧
    decode [0x94, 0x10] = .ok (.sty (.zeroPageX 0x10), []) := ⟨rfl, rfl, rfl, rfl, rfl, rfl⟩

theorem test_words_noop :
    decode [0xEA] = .ok (.nop, []) ∧ decode [0x02] = .ok (.undocumented 0x02, []) ∧
    decode [0x80, 0x10] = .ok (.undocumented 0x80, [0x10]) ∧
    decode [0xFF] = .ok (.undocumented 0xFF, []) := ⟨rfl, rfl, rfl, rfl⟩

/-- A list that ends inside an instruction is refused; a complete one is not. -/
theorem test_short_list_refused :
    decode [] = .error .noOpcode ∧ decode [0x6C, 0xFF] = .error (.missingOperandBytes 0x6C) ∧
    decode [0x69] = .error (.missingOperandBytes 0x69) := ⟨rfl, rfl, rfl⟩

/-- Table words: bit 0 is the least significant bit of the first byte, and bits above nbits are 0. -/
theorem test_table_words :
    decodeTableWord 16 0xFF69 = some (.adc (.immediate 0xFF)) ∧
    decodeTableWord 8 0x69 = some (.adc (.immediate 0x00)) ∧
    decodeTableWord 24 0x12347E = some (.ror (.memory (.absoluteX 0x1234))) ∧
    decodeTableWord 8 0x6C = some (.jmp (.indirect 0x0000)) ∧
    decodeTableWord 8 0x02 = some (.undocumented 0x02) := ⟨rfl, rfl, rfl, rfl, rfl⟩

/-- From reset, the placed word is the first instruction that runs, and changes nothing else. -/
theorem test_with_fetch_word :
    step (State.reset.withFetchWord 16 0xFF69) =
      exec (.adc (.immediate 0xFF)) (State.reset.withFetchWord 16 0xFF69) ∧
    (State.reset.withFetchWord 16 0xFF69).mem = [(0, 0x69), (1, 0xFF)] := ⟨rfl, rfl⟩

/-! ## Addressing (95_test_vectors.md section 3.1) -/

/-- AM2 to AM7: the effective addresses of the six direct and indexed modes. -/
theorem test_addresses :
    effectiveAddr (.zeroPage 0x80) State.reset = 0x0080 ∧
    effectiveAddr (.zeroPageX 0xF8) { State.reset with x := 0x10 } = 0x0008 ∧
    effectiveAddr (.zeroPageY 0x80) { State.reset with y := 0xFF } = 0x007F ∧
    effectiveAddr (.absolute 0x1234) { State.reset with x := 1, y := 1 } = 0x1234 ∧
    effectiveAddr (.absoluteX 0xFFF0) { State.reset with x := 0x20 } = 0x0010 ∧
    effectiveAddr (.absoluteY 0x12FF) { State.reset with y := 0x01 } = 0x1300 := by decide

/-- AM10, AM11: (zp,X), where the indexed pointer address wraps in page zero. -/
theorem test_indexed_indirect :
    effectiveAddr (.indexedIndirectX 0x20)
      (start { State.reset with x := 0x04 } [(0x0024, 0x74), (0x0025, 0x20)] []) = 0x2074 ∧
    effectiveAddr (.indexedIndirectX 0xFF)
      (start { State.reset with x := 0x01 } [(0x0000, 0x34), (0x0001, 0x12)] []) = 0x1234 := by decide

/-- AM12, AM13: (zp),Y, where the sum wraps modulo 65536. -/
theorem test_indirect_indexed :
    effectiveAddr (.indirectIndexedY 0x86)
      (start { State.reset with y := 0x10 } [(0x0086, 0x28), (0x0087, 0x40)] []) = 0x4038 ∧
    effectiveAddr (.indirectIndexedY 0x40)
      (start { State.reset with y := 0x20 } [(0x0040, 0xF0), (0x0041, 0xFF)] []) = 0x0010 := by decide

/-- AM14 to AM17: the pointer at 0xFF under both values of ZP_PTR_WRAP. -/
theorem test_pointer_at_ff :
    zpPtrFor false 0xFF (start State.reset [(0x0000, 0x40), (0x0100, 0x30)] []) = 0x3000 ∧
    zpPtrFor true 0xFF (start State.reset [(0x0000, 0x40), (0x0100, 0x30)] []) = 0x4000 := by decide

/-- AM8, AM9: the Indirect mode with and without the wrap. -/
theorem test_indirect_pointer :
    indirectTarget 0x30FF
      (start State.reset [(0x3000, 0x80), (0x30FF, 0x40), (0x3100, 0x50)] []) = 0x8040 ∧
    indirectTarget 0x1000 (start State.reset [(0x1001, 0x20)] []) = 0x2000 := by decide

/-- AM18: the operand byte is at 0x0000 when PC is 0xFFFF. -/
theorem test_operand_wraps :
    afterStep (start { State.reset with pc := 0xFFFF } [] [0xA9, 0x05]) fun t =>
      t.a = 0x05 ∧ t.pc = 0x0001 := by decide

/-! ## Memory and the host port (95_test_vectors.md sections 1 and 2) -/

/-- W1: the last value written is read, and the next address still reads 0. -/
theorem test_w1 :
    hostRead (hostWrite (hostWrite State.reset 0x1234 0x56) 0x1234 0x78) 0x1234 = 0x78 ∧
    hostRead (hostWrite (hostWrite State.reset 0x1234 0x56) 0x1234 0x78) 0x1235 = 0x00 := by decide

/-- W2: a word written at 0xFFFF wraps to 0x0000. -/
theorem test_w2 :
    hostRead (hostWrite16 State.reset 0xFFFF 0x1234) 0xFFFF = 0x34 ∧
    hostRead (hostWrite16 State.reset 0xFFFF 0x1234) 0x0000 = 0x12 ∧
    hostRead16 (hostWrite16 State.reset 0xFFFF 0x1234) 0xFFFF = 0x1234 := by decide

/-- HM2: word writes do not wrap in page zero. -/
theorem test_hm2 :
    hostRead (hostWrite16 State.reset 0x00FF 0xBEEF) 0x00FF = 0xEF ∧
    hostRead (hostWrite16 State.reset 0x00FF 0xBEEF) 0x0100 = 0xBE := by decide

/-- HM3: a load that runs past 0xFFFF wraps. -/
theorem test_hm3 :
    (hostLoadProgram State.reset [0x01, 0x02, 0x03] 0xFFFE).mem =
      [(0x0000, 0x03), (0xFFFE, 0x01), (0xFFFF, 0x02)] := by decide

/-- HM5, HM6: set_flags and then get_flags. -/
theorem test_hm5_hm6 :
    hostGetFlags (hostSetFlags State.reset 0x00) = 0x00 ∧
    hostGetFlags (hostSetFlags State.reset 0x30) = 0x30 := by decide

/-- Writing 0 removes the entry, so memory is in canonical form again. -/
theorem test_write_zero_unlists :
    (hostWrite (hostWrite State.reset 0x1234 0x56) 0x1234 0x00).mem = [] := by decide

/-! ## One step of each instruction (95_test_vectors.md sections 3.2 to 3.10) -/

/-- AR6: negative + negative -> 0: C, V, Z. -/
theorem test_adc_ar6 :
    afterStep (start { State.reset with pc := 0x0200, a := 0x80 }
      [] [0x69, 0x80]) fun t =>
      t.a = 0x00 ∧ t.pc = 0x0202 ∧ t.flags.pack = 0x43 := by decide

/-- AR8: D = 1 is inert: binary 0x0A, not BCD 0x10. -/
theorem test_adc_ar8 :
    afterStep (start { State.reset with pc := 0x0200, a := 0x09, flags := Flags.unpack 0x08 }
      [] [0x69, 0x01]) fun t =>
      t.a = 0x0A ∧ t.pc = 0x0202 ∧ t.flags.pack = 0x08 := by decide

/-- AR2: source §8 scenario. -/
theorem test_sbc_ar2 :
    afterStep (start { State.reset with a := 0x80, flags := Flags.unpack 0x01 }
      [] [0xE9, 0x01]) fun t =>
      t.a = 0x7F ∧ t.pc = 0x0002 ∧ t.flags.pack = 0x41 := by decide

/-- AR10: C = 0 subtracts one more: 0xFF. -/
theorem test_sbc_ar10 :
    afterStep (start { State.reset with pc := 0x0200, a := 0x05 }
      [] [0xE9, 0x05]) fun t =>
      t.a = 0xFF ∧ t.pc = 0x0202 ∧ t.flags.pack = 0x80 := by decide

/-- AR14: AND to zero. -/
theorem test_and_ar14 :
    afterStep (start { State.reset with pc := 0x0200, a := 0xCC }
      [] [0x29, 0x33]) fun t =>
      t.a = 0x00 ∧ t.pc = 0x0202 ∧ t.flags.pack = 0x02 := by decide

/-- AR15: AND keeps C and V. -/
theorem test_and_ar15 :
    afterStep (start { State.reset with pc := 0x0200, a := 0x80, flags := Flags.unpack 0x41 }
      [] [0x29, 0xFF]) fun t =>
      t.pc = 0x0202 ∧ t.flags.pack = 0xC1 := by decide

/-- AR16: ORA zero. -/
theorem test_ora_ar16 : afterStep (start { State.reset with pc := 0x0200 } [] [0x09, 0x00]) fun t =>
      t.pc = 0x0202 ∧ t.flags.pack = 0x02 := by decide

/-- AR17: ORA sets N. -/
theorem test_ora_ar17 :
    afterStep (start { State.reset with pc := 0x0200, a := 0x0F }
      [] [0x09, 0x80]) fun t =>
      t.a = 0x8F ∧ t.pc = 0x0202 ∧ t.flags.pack = 0x80 := by decide

/-- AR18: EOR to zero. -/
theorem test_eor_ar18 :
    afterStep (start { State.reset with pc := 0x0200, a := 0xFF }
      [] [0x49, 0xFF]) fun t =>
      t.a = 0x00 ∧ t.pc = 0x0202 ∧ t.flags.pack = 0x02 := by decide

/-- AR19: BIT: Z from A & m, N and V from m. -/
theorem test_bit_ar19 :
    afterStep (start { State.reset with pc := 0x0200, a := 0x01 }
      [(0x0010, 0xC0)] [0x24, 0x10]) fun t =>
      t.pc = 0x0202 ∧ t.flags.pack = 0xC2 := by decide

/-- AR20: BIT clears N, V and Z. -/
theorem test_bit_ar20 :
    afterStep (start { State.reset with pc := 0x0200, a := 0xFF, flags := Flags.unpack 0xC2 }
      [(0x1234, 0x3F)] [0x2C, 0x34, 0x12]) fun t =>
      t.pc = 0x0203 ∧ t.flags.pack = 0x00 := by decide

/-- SH8: ASL zp: memory form, A unchanged. -/
theorem test_asl_sh8 :
    afterStep (start { State.reset with pc := 0x0200 }
      [(0x0010, 0x81)] [0x06, 0x10]) fun t =>
      t.pc = 0x0202 ∧ t.readByte 0x0010 = 0x02 ∧ t.flags.pack = 0x01 := by decide

/-- SH11: V unchanged. -/
theorem test_asl_sh11 :
    afterStep (start { State.reset with pc := 0x0200, a := 0x55, flags := Flags.unpack 0x40 }
      [] [0x0A]) fun t =>
      t.a = 0xAA ∧ t.pc = 0x0201 ∧ t.flags.pack = 0xC0 := by decide

/-- SH4: LSR clears N. -/
theorem test_lsr_sh4 :
    afterStep (start { State.reset with pc := 0x0200, a := 0xFF, flags := Flags.unpack 0x80 }
      [] [0x4A]) fun t =>
      t.a = 0x7F ∧ t.pc = 0x0201 ∧ t.flags.pack = 0x01 := by decide

/-- SH10: LSR zp,X wraps: 0x10+0xFF -> 0x0F. -/
theorem test_lsr_sh10 :
    afterStep (start { State.reset with pc := 0x0200, x := 0xFF }
      [(0x000F, 0x01)] [0x56, 0x10]) fun t =>
      t.pc = 0x0202 ∧ t.readByte 0x000F = 0x00 ∧ t.flags.pack = 0x03 := by decide

/-- SH5: ROL: carry in to bit 0. -/
theorem test_rol_sh5 :
    afterStep (start { State.reset with pc := 0x0200, a := 0x80, flags := Flags.unpack 0x01 }
      [] [0x2A]) fun t =>
      t.a = 0x01 ∧ t.pc = 0x0201 ∧ t.flags.pack = 0x01 := by decide

/-- SH6: ROL zero. -/
theorem test_rol_sh6 : afterStep (start { State.reset with pc := 0x0200 } [] [0x2A]) fun t =>
      t.pc = 0x0201 ∧ t.flags.pack = 0x02 := by decide

/-- SH7: ROR: carry in to bit 7. -/
theorem test_ror_sh7 :
    afterStep (start { State.reset with pc := 0x0200, a := 0x01, flags := Flags.unpack 0x01 }
      [] [0x6A]) fun t =>
      t.a = 0x80 ∧ t.pc = 0x0201 ∧ t.flags.pack = 0x81 := by decide

/-- SH9: ROR abs,X. -/
theorem test_ror_sh9 :
    afterStep (start { State.reset with pc := 0x0200, x := 0x01, flags := Flags.unpack 0x01 }
      [(0x1235, 0x02)] [0x7E, 0x34, 0x12]) fun t =>
      t.pc = 0x0203 ∧ t.readByte 0x1235 = 0x81 ∧ t.flags.pack = 0x80 := by decide

/-- CI2: less: C = 0, N from 0xFF. -/
theorem test_cmp_ci2 :
    afterStep (start { State.reset with pc := 0x0200, a := 0x40 }
      [] [0xC9, 0x41]) fun t =>
      t.pc = 0x0202 ∧ t.flags.pack = 0x80 := by decide

/-- CI5: V unchanged by compare. -/
theorem test_cmp_ci5 :
    afterStep (start { State.reset with pc := 0x0200, a := 0x80, flags := Flags.unpack 0x40 }
      [] [0xC9, 0x01]) fun t =>
      t.pc = 0x0202 ∧ t.flags.pack = 0x41 := by decide

/-- CI6: CPX. -/
theorem test_cpx_ci6 :
    afterStep (start { State.reset with pc := 0x0200, x := 0x05 }
      [] [0xE0, 0x0A]) fun t =>
      t.pc = 0x0202 ∧ t.flags.pack = 0x80 := by decide

/-- CI7: CPY zp. -/
theorem test_cpy_ci7 :
    afterStep (start { State.reset with pc := 0x0200, y := 0x10 }
      [(0x0020, 0x10)] [0xC4, 0x20]) fun t =>
      t.pc = 0x0202 ∧ t.flags.pack = 0x03 := by decide

/-- CI8: INC wraps to 0. -/
theorem test_inc_ci8 :
    afterStep (start { State.reset with pc := 0x0200 }
      [(0x0010, 0xFF)] [0xE6, 0x10]) fun t =>
      t.pc = 0x0202 ∧ t.readByte 0x0010 = 0x00 ∧ t.flags.pack = 0x02 := by decide

/-- CI9: INC to 0x80. -/
theorem test_inc_ci9 :
    afterStep (start { State.reset with pc := 0x0200 }
      [(0x0010, 0x7F)] [0xE6, 0x10]) fun t =>
      t.pc = 0x0202 ∧ t.readByte 0x0010 = 0x80 ∧ t.flags.pack = 0x80 := by decide

/-- CI10: DEC wraps to 0xFF. -/
theorem test_dec_ci10 :
    afterStep (start { State.reset with pc := 0x0200 }
      [(0x0010, 0x00)] [0xC6, 0x10]) fun t =>
      t.pc = 0x0202 ∧ t.readByte 0x0010 = 0xFF ∧ t.flags.pack = 0x80 := by decide

/-- CI11: DEC abs,X. -/
theorem test_dec_ci11 :
    afterStep (start { State.reset with pc := 0x0200, x := 0x01 }
      [(0x1235, 0x80)] [0xDE, 0x34, 0x12]) fun t =>
      t.pc = 0x0203 ∧ t.readByte 0x1235 = 0x7F ∧ t.flags.pack = 0x00 := by decide

/-- CI12: INX wraps. -/
theorem test_inx_ci12 :
    afterStep (start { State.reset with pc := 0x0200, x := 0xFF }
      [] [0xE8]) fun t =>
      t.x = 0x00 ∧ t.pc = 0x0201 ∧ t.flags.pack = 0x02 := by decide

/-- CI13: INY to 0x80. -/
theorem test_iny_ci13 :
    afterStep (start { State.reset with pc := 0x0200, y := 0x7F }
      [] [0xC8]) fun t =>
      t.y = 0x80 ∧ t.pc = 0x0201 ∧ t.flags.pack = 0x80 := by decide

/-- CI14: DEX wraps. -/
theorem test_dex_ci14 : afterStep (start { State.reset with pc := 0x0200 } [] [0xCA]) fun t =>
      t.x = 0xFF ∧ t.pc = 0x0201 ∧ t.flags.pack = 0x80 := by decide

/-- CI15: DEY to 0; C unchanged. -/
theorem test_dey_ci15 :
    afterStep (start { State.reset with pc := 0x0200, y := 0x01, flags := Flags.unpack 0x01 }
      [] [0x88]) fun t =>
      t.y = 0x00 ∧ t.pc = 0x0201 ∧ t.flags.pack = 0x03 := by decide

/-- BR1: BPL taken. -/
theorem test_bpl_br1 : afterStep (start { State.reset with pc := 0x0300 } [] [0x10, 0x04]) fun t =>
      t.pc = 0x0306 ∧ t.flags.pack = 0x00 := by decide

/-- BR2: BMI not taken. -/
theorem test_bmi_br2 : afterStep (start { State.reset with pc := 0x0300 } [] [0x30, 0x04]) fun t =>
      t.pc = 0x0302 ∧ t.flags.pack = 0x00 := by decide

/-- BR4: BVC to itself: parked. -/
theorem test_bvc_br4 : afterStep (start { State.reset with pc := 0x0300 } [] [0x50, 0xFE]) fun t =>
      t.pc = 0x0300 ∧ t.flags.pack = 0x00 := by decide

/-- BR3: BVS taken, most negative displacement. -/
theorem test_bvs_br3 :
    afterStep (start { State.reset with pc := 0x0300, flags := Flags.unpack 0x40 }
      [] [0x70, 0x80]) fun t =>
      t.pc = 0x0282 ∧ t.flags.pack = 0x40 := by decide

/-- BR6: BCC taken with displacement 0: same as not taken. -/
theorem test_bcc_br6 : afterStep (start { State.reset with pc := 0x0300 } [] [0x90, 0x00]) fun t =>
      t.pc = 0x0302 ∧ t.flags.pack = 0x00 := by decide

/-- BR5: BCS, most positive displacement. -/
theorem test_bcs_br5 :
    afterStep (start { State.reset with pc := 0x0300, flags := Flags.unpack 0x01 }
      [] [0xB0, 0x7F]) fun t =>
      t.pc = 0x0381 ∧ t.flags.pack = 0x01 := by decide

/-- BR7: BNE backward. -/
theorem test_bne_br7 : afterStep (start { State.reset with pc := 0x0310 } [] [0xD0, 0xFA]) fun t =>
      t.pc = 0x030C ∧ t.flags.pack = 0x00 := by decide

/-- BR9: BNE not taken. -/
theorem test_bne_br9 :
    afterStep (start { State.reset with pc := 0x0300, flags := Flags.unpack 0x02 }
      [] [0xD0, 0x10]) fun t =>
      t.pc = 0x0302 ∧ t.flags.pack = 0x02 := by decide

/-- BR8: BEQ wraps past 0xFFFF. -/
theorem test_beq_br8 :
    afterStep (start { State.reset with pc := 0xFFF8, flags := Flags.unpack 0x02 }
      [] [0xF0, 0x10]) fun t =>
      t.pc = 0x000A ∧ t.flags.pack = 0x02 := by decide

/-- BR11: JMP abs. -/
theorem test_jmp_br11 :
    afterStep (start { State.reset with pc := 0x0200 }
      [] [0x4C, 0x34, 0x12]) fun t =>
      t.pc = 0x1234 ∧ t.flags.pack = 0x00 := by decide

/-- BR12: JMP indirect quirk. -/
theorem test_jmp_br12 :
    afterStep (start { State.reset with pc := 0x0200 }
      [(0x3000, 0x80), (0x30FF, 0x40)] [0x6C, 0xFF, 0x30]) fun t =>
      t.pc = 0x8040 ∧ t.flags.pack = 0x00 := by decide

/-- BR13: JSR, source §8; SP starts at 0. -/
theorem test_jsr_br13 : afterStep (start State.reset [] [0x20, 0x03, 0x10]) fun t =>
      t.sp = 0xFE ∧ t.pc = 0x1003 ∧ t.readByte 0x01FF = 0x02 ∧ t.flags.pack = 0x00 := by decide

/-- BR14: JSR pushes PC-1 = 0x0202. -/
theorem test_jsr_br14 :
    afterStep (start { State.reset with pc := 0x0200, sp := 0xFF }
      [] [0x20, 0x00, 0x40]) fun t =>
      t.sp = 0xFD ∧ t.pc = 0x4000 ∧ t.readByte 0x01FE = 0x02 ∧ t.readByte 0x01FF = 0x02 ∧
      t.flags.pack = 0x00 := by decide

/-- BR15: RTS adds 1. -/
theorem test_rts_br15 :
    afterStep (start { State.reset with pc := 0x4000, sp := 0xFD }
      [(0x01FE, 0x02), (0x01FF, 0x02)] [0x60]) fun t =>
      t.sp = 0xFF ∧ t.pc = 0x0203 ∧ t.flags.pack = 0x00 := by decide

/-- BR16: RTS with SP = 0 pulls from 0x0101, 0x0102. -/
theorem test_rts_br16 : afterStep (start { State.reset with pc := 0x4000 } [] [0x60]) fun t =>
      t.sp = 0x02 ∧ t.pc = 0x0001 ∧ t.flags.pack = 0x00 := by decide

/-- ST1: PHA. -/
theorem test_pha_st1 :
    afterStep (start { State.reset with pc := 0x0200, a := 0x42, sp := 0xFF }
      [] [0x48]) fun t =>
      t.sp = 0xFE ∧ t.pc = 0x0201 ∧ t.readByte 0x01FF = 0x42 ∧ t.flags.pack = 0x00 := by decide

/-- ST2: PHA at SP = 0 writes 0x0100, SP wraps. -/
theorem test_pha_st2 :
    afterStep (start { State.reset with pc := 0x0200, a := 0x42 }
      [] [0x48]) fun t =>
      t.sp = 0xFF ∧ t.pc = 0x0201 ∧ t.readByte 0x0100 = 0x42 ∧ t.flags.pack = 0x00 := by decide

/-- ST3: PLA sets N. -/
theorem test_pla_st3 :
    afterStep (start { State.reset with pc := 0x0200, sp := 0xFE }
      [(0x01FF, 0x80)] [0x68]) fun t =>
      t.a = 0x80 ∧ t.sp = 0xFF ∧ t.pc = 0x0201 ∧ t.flags.pack = 0x80 := by decide

/-- ST4: PLA at SP = 0xFF wraps to 0x0100; Z. -/
theorem test_pla_st4 :
    afterStep (start { State.reset with pc := 0x0200, a := 0x11, sp := 0xFF }
      [(0x0100, 0x00)] [0x68]) fun t =>
      t.a = 0x00 ∧ t.sp = 0x00 ∧ t.pc = 0x0201 ∧ t.flags.pack = 0x02 := by decide

/-- ST5: PHP with all flags 0 pushes 0x30. -/
theorem test_php_st5 :
    afterStep (start { State.reset with pc := 0x0200, sp := 0xFF }
      [] [0x08]) fun t =>
      t.sp = 0xFE ∧ t.pc = 0x0201 ∧ t.readByte 0x01FF = 0x30 ∧ t.flags.pack = 0x00 := by decide

/-- ST6: PHP pushes 0xFF; stored B and U stay 0. -/
theorem test_php_st6 :
    afterStep (start { State.reset with pc := 0x0200, sp := 0xFF, flags := Flags.unpack 0xCF }
      [] [0x08]) fun t =>
      t.sp = 0xFE ∧ t.pc = 0x0201 ∧ t.readByte 0x01FF = 0xFF ∧ t.flags.pack = 0xCF := by decide

/-- ST7: PLP of 0x00 sets U only. -/
theorem test_plp_st7 :
    afterStep (start { State.reset with pc := 0x0200, sp := 0xFE }
      [(0x01FF, 0x00)] [0x28]) fun t =>
      t.sp = 0xFF ∧ t.pc = 0x0201 ∧ t.flags.pack = 0x20 := by decide

/-- ST9: PLP of 0x10. -/
theorem test_plp_st9 :
    afterStep (start { State.reset with pc := 0x0200, sp := 0xFE, flags := Flags.unpack 0xFF }
      [(0x01FF, 0x10)] [0x28]) fun t =>
      t.sp = 0xFF ∧ t.pc = 0x0201 ∧ t.flags.pack = 0x30 := by decide

/-- FT1: SEC. -/
theorem test_sec_ft1 : afterStep (start { State.reset with pc := 0x0200 } [] [0x38]) fun t =>
      t.pc = 0x0201 ∧ t.flags.pack = 0x01 := by decide

/-- FT2: CLC. -/
theorem test_clc_ft2 :
    afterStep (start { State.reset with pc := 0x0200, flags := Flags.unpack 0x01 }
      [] [0x18]) fun t =>
      t.pc = 0x0201 ∧ t.flags.pack = 0x00 := by decide

/-- FT3: SEI. -/
theorem test_sei_ft3 : afterStep (start { State.reset with pc := 0x0200 } [] [0x78]) fun t =>
      t.pc = 0x0201 ∧ t.flags.pack = 0x04 := by decide

/-- FT4: CLI. -/
theorem test_cli_ft4 :
    afterStep (start { State.reset with pc := 0x0200, flags := Flags.unpack 0x04 }
      [] [0x58]) fun t =>
      t.pc = 0x0201 ∧ t.flags.pack = 0x00 := by decide

/-- FT5: SED. -/
theorem test_sed_ft5 : afterStep (start { State.reset with pc := 0x0200 } [] [0xF8]) fun t =>
      t.pc = 0x0201 ∧ t.flags.pack = 0x08 := by decide

/-- FT6: CLD. -/
theorem test_cld_ft6 :
    afterStep (start { State.reset with pc := 0x0200, flags := Flags.unpack 0x08 }
      [] [0xD8]) fun t =>
      t.pc = 0x0201 ∧ t.flags.pack = 0x00 := by decide

/-- FT7: CLV. -/
theorem test_clv_ft7 :
    afterStep (start { State.reset with pc := 0x0200, flags := Flags.unpack 0x40 }
      [] [0xB8]) fun t =>
      t.pc = 0x0201 ∧ t.flags.pack = 0x00 := by decide

/-- FT8: TAX zero. -/
theorem test_tax_ft8 :
    afterStep (start { State.reset with pc := 0x0200, x := 0x12 }
      [] [0xAA]) fun t =>
      t.x = 0x00 ∧ t.pc = 0x0201 ∧ t.flags.pack = 0x02 := by decide

/-- FT9: TAY negative. -/
theorem test_tay_ft9 :
    afterStep (start { State.reset with pc := 0x0200, a := 0x80 }
      [] [0xA8]) fun t =>
      t.y = 0x80 ∧ t.pc = 0x0201 ∧ t.flags.pack = 0x80 := by decide

/-- FT10: TXA. -/
theorem test_txa_ft10 :
    afterStep (start { State.reset with pc := 0x0200, a := 0x01, x := 0x7F }
      [] [0x8A]) fun t =>
      t.a = 0x7F ∧ t.pc = 0x0201 ∧ t.flags.pack = 0x00 := by decide

/-- FT11: TYA. -/
theorem test_tya_ft11 :
    afterStep (start { State.reset with pc := 0x0200, y := 0xFF }
      [] [0x98]) fun t =>
      t.a = 0xFF ∧ t.pc = 0x0201 ∧ t.flags.pack = 0x80 := by decide

/-- FT12: TSX. -/
theorem test_tsx_ft12 :
    afterStep (start { State.reset with pc := 0x0200, sp := 0xFD }
      [] [0xBA]) fun t =>
      t.x = 0xFD ∧ t.pc = 0x0201 ∧ t.flags.pack = 0x80 := by decide

/-- FT13: TXS writes N (D8). -/
theorem test_txs_ft13 :
    afterStep (start { State.reset with pc := 0x0200, x := 0x80 }
      [] [0x9A]) fun t =>
      t.sp = 0x80 ∧ t.pc = 0x0201 ∧ t.flags.pack = 0x80 := by decide

/-- FT14: TXS writes Z (D8). -/
theorem test_txs_ft14 :
    afterStep (start { State.reset with pc := 0x0200, sp := 0xFF }
      [] [0x9A]) fun t =>
      t.sp = 0x00 ∧ t.pc = 0x0201 ∧ t.flags.pack = 0x02 := by decide

/-- BK2: BRK keeps N, V, Z, C; pushes 0xF7. -/
theorem test_brk_bk2 :
    afterStep (start { State.reset with pc := 0x0200, sp := 0xFF, flags := Flags.unpack 0xC3 }
      [(0xFFFE, 0x00), (0xFFFF, 0x80)] [0x00]) fun t =>
      t.sp = 0xFC ∧ t.pc = 0x8000 ∧ t.readByte 0x01FD = 0xF7 ∧ t.readByte 0x01FE = 0x02 ∧
      t.readByte 0x01FF = 0x02 ∧ t.flags.pack = 0xC7 := by decide

/-- BK3: stored U = 1 stays 1 (D7). -/
theorem test_brk_bk3 :
    afterStep (start { State.reset with pc := 0x0200, sp := 0xFF, flags := Flags.unpack 0x20 }
      [(0xFFFE, 0x00), (0xFFFF, 0x80)] [0x00]) fun t =>
      t.sp = 0xFC ∧ t.pc = 0x8000 ∧ t.readByte 0x01FD = 0x34 ∧ t.readByte 0x01FE = 0x02 ∧
      t.readByte 0x01FF = 0x02 ∧ t.flags.pack = 0x24 := by decide

/-- BK5: RTI: B and U cleared, no +1. -/
theorem test_rti_bk5 :
    afterStep (start { State.reset with pc := 0x8000, sp := 0xFC }
      [(0x01FD, 0xF3), (0x01FE, 0x02), (0x01FF, 0x02)] [0x40]) fun t =>
      t.sp = 0xFF ∧ t.pc = 0x0202 ∧ t.flags.pack = 0xC3 := by decide

/-- BK6: RTI of flag byte 0. -/
theorem test_rti_bk6 :
    afterStep (start { State.reset with pc := 0x8000, sp := 0xFC }
      [(0x01FD, 0x00), (0x01FE, 0x34), (0x01FF, 0x12)] [0x40]) fun t =>
      t.sp = 0xFF ∧ t.pc = 0x1234 ∧ t.flags.pack = 0x00 := by decide

/-- AM3: Zero Page,X wraps: 0xF8+0x10 -> 0x08. -/
theorem test_lda_am3 :
    afterStep (start { State.reset with pc := 0x0200, x := 0x10 }
      [(0x0008, 0x99)] [0xB5, 0xF8]) fun t =>
      t.a = 0x99 ∧ t.pc = 0x0202 ∧ t.flags.pack = 0x80 := by decide

/-- LS1: LDA zero. -/
theorem test_lda_ls1 :
    afterStep (start { State.reset with pc := 0x0200, a := 0x55 }
      [] [0xA9, 0x00]) fun t =>
      t.a = 0x00 ∧ t.pc = 0x0202 ∧ t.flags.pack = 0x02 := by decide

/-- LS3: LDX zp,Y. -/
theorem test_ldx_ls3 :
    afterStep (start { State.reset with pc := 0x0200, y := 0x02 }
      [(0x0012, 0x01)] [0xB6, 0x10]) fun t =>
      t.x = 0x01 ∧ t.pc = 0x0202 ∧ t.flags.pack = 0x00 := by decide

/-- LS4: LDY abs,X. -/
theorem test_ldy_ls4 :
    afterStep (start { State.reset with pc := 0x0200, x := 0x01 }
      [(0x1235, 0xFF)] [0xBC, 0x34, 0x12]) fun t =>
      t.y = 0xFF ∧ t.pc = 0x0203 ∧ t.flags.pack = 0x80 := by decide

/-- LS5: STA abs,X writes no flag. -/
theorem test_sta_ls5 :
    afterStep (start { State.reset with pc := 0x0200, a := 0x80, x := 0x01 }
      [] [0x9D, 0x34, 0x12]) fun t =>
      t.pc = 0x0203 ∧ t.readByte 0x1235 = 0x80 ∧ t.flags.pack = 0x00 := by decide

/-- LS9: STA (zp),Y. -/
theorem test_sta_ls9 :
    afterStep (start { State.reset with pc := 0x0200, a := 0x99, y := 0x05 }
      [(0x0040, 0x00), (0x0041, 0x30)] [0x91, 0x40]) fun t =>
      t.pc = 0x0202 ∧ t.readByte 0x3005 = 0x99 ∧ t.flags.pack = 0x00 := by decide

/-- LS7: STX zp,Y wraps to 0x0000. -/
theorem test_stx_ls7 :
    afterStep (start { State.reset with pc := 0x0200, x := 0xAA, y := 0x01 }
      [] [0x96, 0xFF]) fun t =>
      t.pc = 0x0202 ∧ t.readByte 0x0000 = 0xAA ∧ t.flags.pack = 0x00 := by decide

/-- LS8: STY abs. -/
theorem test_sty_ls8 :
    afterStep (start { State.reset with pc := 0x0200, y := 0x3C }
      [] [0x8C, 0x00, 0x03]) fun t =>
      t.pc = 0x0203 ∧ t.readByte 0x0300 = 0x3C ∧ t.flags.pack = 0x00 := by decide

/-- NP1: NOP. -/
theorem test_nop_np1 :
    afterStep (start { State.reset with pc := 0x0200, a := 0x12 }
      [] [0xEA]) fun t =>
      t.pc = 0x0201 ∧ t.flags.pack = 0x00 := by decide

/-- NP2: undocumented, a halt byte on NMOS: 1-byte no-op here. -/
theorem test_undocumented_np2 :
    afterStep (start { State.reset with pc := 0x0200 }
      [] [0x02]) fun t =>
      t.pc = 0x0201 ∧ t.flags.pack = 0x00 := by decide

/-- NP4: undocumented at 0xFFFF: PC wraps. -/
theorem test_undocumented_np4 :
    afterStep (start { State.reset with pc := 0xFFFF }
      [] [0xFF]) fun t =>
      t.pc = 0x0000 ∧ t.flags.pack = 0x00 := by decide

/-! ## States that meet the hypotheses of the statements -/

/-- A state with a memory byte listed, X and Y set and every flag but B and U set. -/
def sample (code : List Byte) : State :=
  start { State.reset with
    pc := 0x0200, a := 0x80, x := 0x01, y := 0x02, sp := 0xFF, flags := Flags.unpack 0xCF }
    [(0x0010, 0x34), (0x0011, 0x12), (0x1234, 0x90)] code

theorem test_witness_DecodeOfEncode :
    (Instr.adc (.memory (.absoluteX 0xFFFF))).wellFormed = true ∧
    (Instr.undocumented 0xFF).wellFormed = true ∧ (Instr.ldx (.memory (.zeroPageY 0xFF))).wellFormed = true := by
  decide

/-- The first and the last of the 105 slots. -/
theorem test_witness_UndocumentedSlotsAreOneByteNoOps :
    (sample [0x02]).readByte (sample [0x02]).pc ∈ undocumentedOpcodes ∧
    (sample [0xFF]).readByte (sample [0xFF]).pc ∈ undocumentedOpcodes := by decide

theorem test_witness_StepRunsDecodedInstruction :
    decode (fetchBytes (sample [0x69, 0xFF, 0xEA])) = .ok (.adc (.immediate 0xFF), [0xEA]) ∧
    (Instr.adc (.immediate 0xFF)).wellFormed = true := by decide

theorem test_witness_StepKeepsInvariant :
    (sample [0x85, 0x20]).Inv ∧ ∃ t, step (sample [0x85, 0x20]) = .next t := ⟨rfl, _, rfl⟩

theorem test_witness_HostOperationsKeepInvariant :
    (sample [0x85, 0x20]).Inv ∧ ∃ t, hostExecN 1 (sample [0x85, 0x20]) = .next t := ⟨rfl, _, rfl⟩

/-- At the top of memory, where PC wraps. -/
theorem test_witness_PcMovesPastInstruction :
    (Instr.lda (.memory (.absolute 0x1234))).transfersControl = false ∧
    ∃ t, exec (.lda (.memory (.absolute 0x1234))) { State.reset with pc := 0xFFFF } = .next t :=
  ⟨rfl, _, rfl⟩

/-- One instruction for each of the four clauses. -/
theorem test_witness_RegisterFrame :
    (∃ t, exec (.asl (.memory (.zeroPage 0x10))) (sample []) = .next t) ∧
    (Instr.asl (.memory (.zeroPage 0x10))).mayWriteA = false ∧
    (Instr.asl (.memory (.zeroPage 0x10))).mayWriteX = false ∧
    (Instr.asl (.memory (.zeroPage 0x10))).mayWriteY = false ∧
    (Instr.asl (.memory (.zeroPage 0x10))).mayWriteSp = false := ⟨⟨_, rfl⟩, rfl, rfl, rfl, rfl⟩

theorem test_witness_FlagFrame :
    (∃ t, exec (.sta (.zeroPage 0x10)) (sample []) = .next t) ∧
    (Instr.sta (.zeroPage 0x10)).mayWriteC = false ∧ (Instr.sta (.zeroPage 0x10)).mayWriteZN = false ∧
    (Instr.sta (.zeroPage 0x10)).mayWriteI = false ∧ (Instr.sta (.zeroPage 0x10)).mayWriteD = false ∧
    (Instr.sta (.zeroPage 0x10)).mayWriteB = false ∧ (Instr.sta (.zeroPage 0x10)).mayWriteU = false ∧
    (Instr.sta (.zeroPage 0x10)).mayWriteV = false :=
  ⟨⟨_, rfl⟩, rfl, rfl, rfl, rfl, rfl, rfl, rfl⟩

/-- The neighbours of a stored byte, of a JSR's two stack bytes and of a BRK's three. -/
theorem test_witness_MemoryFrame :
    (∃ t, exec (.sta (.zeroPage 0x10)) (sample []) = .next t) ∧
    0x0011#16 ∉ (Instr.sta (.zeroPage 0x10)).storedAddrs (sample []) ∧
    (∃ t, exec (.jsr 0x1003) (sample []) = .next t) ∧
    0x01FD#16 ∉ (Instr.jsr 0x1003).storedAddrs (sample []) ∧
    (∃ t, exec .brk (sample []) = .next t) ∧ 0x01FC#16 ∉ Instr.brk.storedAddrs (sample []) := by
  refine ⟨⟨_, rfl⟩, by decide, ⟨_, rfl⟩, by decide, ⟨_, rfl⟩, by decide⟩

/-- RTI clears a set U and B, PLP sets a clear U and B, and PLP and BRK clear a set B. -/
theorem test_witness_UnusedAndBreakFlagWriters :
    (afterStep (start { State.reset with flags := Flags.unpack 0x30 } [] [0x40]) fun t =>
      t.flags.u = false ∧ t.flags.b = false) ∧
    (afterStep (start State.reset [(0x0101, 0x10)] [0x28]) fun t =>
      t.flags.u = true ∧ t.flags.b = true) ∧
    (afterStep (start { State.reset with flags := Flags.unpack 0x30 } [] [0x28]) fun t =>
      t.flags.b = false) ∧
    (afterStep (start { State.reset with flags := Flags.unpack 0x30 } [] [0x00]) fun t =>
      t.flags.b = false) := by decide

theorem test_witness_InterruptDisableMasksNothing :
    fetchInstr (sample [0x00]) ≠ .php ∧ fetchInstr (sample [0x08]) = .php := by decide

theorem test_witness_DecimalFlagIsInert :
    (fetchInstr (sample [0x69, 0x19]) ≠ .php ∧ fetchInstr (sample [0x69, 0x19]) ≠ .brk) ∧
    fetchInstr (sample [0x08]) = .php ∧ fetchInstr (sample [0x00]) = .brk := by decide

/-- Also at 0xFFFD, where the stored byte is at 0x0000. -/
theorem test_witness_StoredOpcodeIsFetchedNext :
    (∃ t, exec (.sta (.absolute ((sample []).pc + 3#16))) (sample []) = .next t) ∧
    ∃ t, exec (.sta (.absolute (0xFFFD#16 + 3#16))) { State.reset with pc := 0xFFFD, a := 0xEA } =
      .next t := ⟨⟨_, rfl⟩, _, rfl⟩

/-- BR17 and BR4: a jump to itself and a taken branch to itself. -/
theorem test_witness_ParkedStatesStay :
    Parked (sample [0x4C, 0x00, 0x02]) ∧
    Parked (start { State.reset with pc := 0x0300 } [] [0x50, 0xFE]) :=
  ⟨.inl (by decide), .inr (by decide)⟩

theorem test_witness_HostFieldAccess : Field.u ≠ Field.b ∧ Field.a ≠ Field.pc := by decide

/-- At 0xFFFF, where the high byte is at 0x0000. -/
theorem test_witness_WordsAreLittleEndian :
    0x0001#16 ≠ 0xFFFF#16 ∧ 0x0001#16 ≠ 0xFFFF#16 + 1#16 := by decide

/-- An image of all 65,536 bytes, and a byte outside a short image that wraps. -/
theorem test_witness_LoadProgramPlacesBytes :
    (List.replicate 65536 0x11#8).length ≤ 65536 ∧ [0x01#8, 0x02, 0x03].length ≤ 65536 ∧
    2 < [0x01#8, 0x02, 0x03].length ∧
    ∀ k, k < [0x01#8, 0x02, 0x03].length → 0x0001#16 ≠ 0xFFFE#16 + BitVec.ofNat 16 k :=
  ⟨by rw [List.length_replicate], by decide, by decide, by decide⟩

theorem test_witness_PullsReversePushes : (List.replicate 256 0x11#8).length ≤ 256 := by
  rw [List.length_replicate]

/-- Two states reached by different writes. -/
theorem test_witness_EqualReadsMakeEqualStates :
    let s := State.reset.writeAll [(0x0001, 0x11), (0xFFFF, 0x22), (0x0300, 0x33)]
    let t := State.reset.writeAll [(0xFFFF, 0x22), (0x0300, 0x44), (0x0001, 0x11), (0x0300, 0x33)]
    s.Inv ∧ t.Inv ∧ s.a = t.a ∧ s.x = t.x ∧ s.y = t.y ∧ s.sp = t.sp ∧ s.pc = t.pc ∧
      s.flags = t.flags ∧ ∀ addr, hostRead s addr = hostRead t addr :=
  ⟨rfl, rfl, rfl, rfl, rfl, rfl, rfl, rfl, fun _ => rfl⟩

/-- An instruction of each mode. -/
theorem test_witness_AddressingModes :
    (fetchInstr (sample [0x69, 0xFF])).immediateOperand = some 0xFF ∧
    (fetchInstr (sample [0x90, 0x80])).displacement = some 0x80 ∧
    (fetchInstr (sample [0xB6, 0xFF])).mode = .zeroPageY ∧
    fetchInstr (sample [0x4C, 0xFF, 0xFF]) = .jmp (.absolute 0xFFFF) ∧
    fetchInstr (sample [0x20, 0x00, 0x00]) = .jsr 0x0000 ∧
    (fetchInstr (sample [0xA5, 0xFF])).memOperand = some (.zeroPage 0xFF) ∧
    (fetchInstr (sample [0xB5, 0xFF])).memOperand = some (.zeroPageX 0xFF) ∧
    (fetchInstr (sample [0xB6, 0xFF])).memOperand = some (.zeroPageY 0xFF) ∧
    (fetchInstr (sample [0xAD, 0xFF, 0xFF])).memOperand = some (.absolute 0xFFFF) ∧
    (fetchInstr (sample [0xBD, 0xFF, 0xFF])).memOperand = some (.absoluteX 0xFFFF) ∧
    (fetchInstr (sample [0xB9, 0xFF, 0xFF])).memOperand = some (.absoluteY 0xFFFF) ∧
    (fetchInstr (sample [0xA1, 0xFE])).memOperand = some (.indexedIndirectX 0xFE) ∧
    (fetchInstr (sample [0xB1, 0xFF])).memOperand = some (.indirectIndexedY 0xFF) := by decide

theorem test_witness_ZeroPagePointer : 0xFE#8 ≠ 0xFF#8 ∧ 0xFF#8 = 0xFF#8 := by decide

theorem test_witness_IndirectJumpWrapsInPage :
    0x6C#8 = 0x6C#8 ∧ (0x30FE#16).toNat % 256 ≠ 0xFF ∧ (0x30FF#16).toNat % 256 = 0xFF := by decide

theorem test_witness_OverflowIsSignedOverflow :
    (∃ t, exec (.adc (.immediate 0x80)) (sample []) = .next t) ∧
    ∃ t, exec (.sbc (.immediate 0x7F)) (sample []) = .next t := ⟨⟨_, rfl⟩, _, rfl⟩

/-- With C set, and with C clear. -/
theorem test_witness_BccStep :
    (sample [0x90, 0x80]).readByte (sample [0x90, 0x80]).pc = 0x90 ∧
    (start State.reset [] [0x90, 0x7F]).readByte 0x0000 = 0x90 := by decide

/-- A JSR at SP = 0x00, so that its two bytes are at 0x0100 and 0x01FF. -/
theorem test_witness_SubroutineReturns :
    ∃ called, exec (.jsr 0x1003) State.reset = .next called ∧
      (called.setA 0x11).sp = called.sp ∧
      (called.setA 0x11).readByte (State.reset.stackByteAddr 0) =
        called.readByte (State.reset.stackByteAddr 0) ∧
      (called.setA 0x11).readByte (State.reset.stackByteAddr 1) =
        called.readByte (State.reset.stackByteAddr 1) := ⟨_, rfl, rfl, rfl, rfl⟩

theorem test_witness_PhpThenPlp :
    ∃ pushed, exec .php (sample []) = .next pushed ∧
      (pushed.setFlags (Flags.unpack 0x00)).sp = pushed.sp ∧
      (pushed.setFlags (Flags.unpack 0x00)).readByte ((sample []).stackByteAddr 0) =
        pushed.readByte ((sample []).stackByteAddr 0) := ⟨_, rfl, rfl, rfl⟩

/-- A BRK at SP = 0x01, so that its three bytes are at 0x0101, 0x0100 and 0x01FF. -/
theorem test_witness_TrapReturns :
    ∃ entered, exec .brk { State.reset with sp := 0x01 } = .next entered ∧
      (entered.setX 0x11).sp = entered.sp ∧
      ∀ k, k < 3 → (entered.setX 0x11).readByte (({ State.reset with sp := 0x01 }).stackByteAddr k) =
        entered.readByte (({ State.reset with sp := 0x01 }).stackByteAddr k) :=
  ⟨_, rfl, rfl, fun _ _ => rfl⟩

end Sys2Proof.Tests
end

section
/-! PROOF. What the host port reads of the state after construction (10_state.md R23), and what a launch
changes (70_reset_and_hazards.md R148). -/

namespace Sys2Proof.Machine

@[simp] theorem hostGetFlags_reset : hostGetFlags State.reset = 0x00#8 := by decide

/-- The memory of reset lists no address. -/
@[simp] theorem hostRead_reset (addr : Word) : hostRead State.reset addr = 0x00#8 :=
  Memory.read_nil addr.toNat

/-- A launch is a write of PC in any state, not at reset alone. -/
theorem State.launch_eq (s : State) (pc0 : Word) : s.launch pc0 = { s with pc := pc0 } := rfl

/-- Settles O22: the registers and flags are those of the definition of `State.reset`; the packed byte,
the memory and the launch have their lemmas. -/
theorem resetState : Obligations.ResetState := by
  unfold Obligations.ResetState
  -- five registers, then the eight flags
  exact ⟨rfl, rfl, rfl, rfl, rfl, rfl, rfl, rfl, rfl, rfl, rfl, rfl, rfl,
    hostGetFlags_reset, hostRead_reset, State.launch_eq State.reset⟩

end Sys2Proof.Machine
end

section
/-! PROOF. A byte write replaces one byte (20_memory.md R27); the word accesses are two byte accesses at
adjacent addresses (20_memory.md R28, R29). -/

namespace Sys2Proof.Machine

/-- Settles O26: the byte read after the write is the lemma of byte accesses, and the write is to memory
alone. -/
theorem writeChangesOneByte : Obligations.WriteChangesOneByte := by
  unfold Obligations.WriteChangesOneByte
  intro s addr b v
  have hread : (s.writeByte addr v).readByte b = if b = addr then v else s.readByte b := by
    simp only [State.readByte_writeByte, eq_comm]
  exact ⟨hread, State.writeByte_a s addr v, State.writeByte_x s addr v, State.writeByte_y s addr v,
    State.writeByte_sp s addr v, State.writeByte_pc s addr v, State.writeByte_flags s addr v⟩

/-! ## Word accesses -/

/-- The two bytes of a word are at different addresses, also where the second wraps to 0x0000. -/
theorem succ_addr_ne (addr : Word) : addr + 1#16 ≠ addr := by simp

theorem succ_addr_eq_ofNat (addr : Word) :
    addr + 1#16 = BitVec.ofNat 16 ((addr.toNat + 1) % 65536) :=
  BitVec.eq_of_toNat_eq (by simp)

namespace State

theorem readWord_toNat (s : State) (addr : Word) :
    (s.readWord addr).toNat = (s.readByte (addr + 1#16)).toNat * 256 + (s.readByte addr).toNat :=
  word_toNat _ _

/-- The write of the high byte leaves the low byte in place. -/
@[simp] theorem readByte_writeWord_low (s : State) (addr v : Word) :
    (s.writeWord addr v).readByte addr = lowByte v := by
  rw [writeWord, readByte_writeByte_other _ _ (succ_addr_ne addr), readByte_writeByte_same]

@[simp] theorem readByte_writeWord_high (s : State) (addr v : Word) :
    (s.writeWord addr v).readByte (addr + 1#16) = highByte v :=
  readByte_writeByte_same _ _ _

theorem readByte_writeWord_other (s : State) {addr b : Word} (v : Word) (hlow : b ≠ addr)
    (hhigh : b ≠ addr + 1#16) : (s.writeWord addr v).readByte b = s.readByte b := by
  rw [writeWord, readByte_writeByte_other _ _ hhigh.symm, readByte_writeByte_other _ _ hlow.symm]

/-- A word read after a word write returns the value, at every address (20_memory.md R29). -/
@[simp] theorem readWord_writeWord (s : State) (addr v : Word) :
    (s.writeWord addr v).readWord addr = v := by
  rw [readWord, readByte_writeWord_high, readByte_writeWord_low, word_high_low]

end State

/-- Settles O28: a word read is its two bytes' word, and each byte after a word write is one of three:
the low one, the high one, or another. -/
theorem wordsAreLittleEndian : Obligations.WordsAreLittleEndian := by
  unfold Obligations.WordsAreLittleEndian hostRead hostRead16 hostWrite16
  intro s addr v
  refine ⟨?read, State.readWord_writeWord s addr v, ?low,
    fun b => State.readByte_writeWord_other s v⟩
  case read => rw [← succ_addr_eq_ofNat, State.readWord_toNat]
  case low => rw [State.readByte_writeWord_low, lowByte_toNat]

end Sys2Proof.Machine
end

section
/-! PROOF. The addressing modes. An instruction's operand bytes are its value, its displacement, or its
word or memory operand's bytes; a fetch reads them right after the opcode byte (30_encoding.md R46, R47).
So each operand is the byte or the word at PC + 1, and the length follows. -/

namespace Sys2Proof

open Sys2Proof.Machine (lowByte highByte)

/-! ## The operand bytes by kind of operand -/

theorem Source.bytes_of_immediateOperand {src : Source} {v : Byte} (h : src.immediateOperand = some v) :
    src.bytes = [v] := by
  cases src with
  | immediate _ => cases h; rfl
  | memory _ => cases h

theorem Source.bytes_of_memOperand {src : Source} {m : MemOperand} (h : src.memOperand = some m) :
    src.bytes = m.bytes := by
  cases src with
  | immediate _ => cases h
  | memory _ => cases h; rfl

theorem ShiftOperand.bytes_of_memOperand {t : ShiftOperand} {m : MemOperand}
    (h : t.memOperand = some m) : t.bytes = m.bytes := by
  cases t with
  | accumulator => cases h
  | memory _ => cases h; rfl

theorem Instr.operandBytes_of_immediateOperand {i : Instr} {v : Byte} (h : i.immediateOperand = some v) :
    i.operandBytes = [v] := by
  cases i with
  | adc _ | sbc _ | and _ | ora _ | eor _ => exact Source.bytes_of_immediateOperand h
  | cmp _ | cpx _ | cpy _ | lda _ | ldx _ | ldy _ => exact Source.bytes_of_immediateOperand h
  | _ => cases h

theorem Instr.operandBytes_of_displacement {i : Instr} {d : Byte} (h : i.displacement = some d) :
    i.operandBytes = [d] := by
  cases i with
  | bpl _ | bmi _ | bvc _ | bvs _ | bcc _ | bcs _ | bne _ | beq _ => cases h; rfl
  | _ => cases h

theorem Instr.operandBytes_of_memOperand {i : Instr} {m : MemOperand} (h : i.memOperand = some m) :
    i.operandBytes = m.bytes := by
  cases i with
  | adc _ | sbc _ | and _ | ora _ | eor _ => exact Source.bytes_of_memOperand h
  | cmp _ | cpx _ | cpy _ | lda _ | ldx _ | ldy _ => exact Source.bytes_of_memOperand h
  | asl _ | lsr _ | rol _ | ror _ => exact ShiftOperand.bytes_of_memOperand h
  | bit _ | inc _ | dec _ | sta _ | stx _ | sty _ => cases h; rfl
  | _ => cases h

theorem Instr.operandBytes_of_absolute_target {i : Instr} {w : Word}
    (h : i = .jmp (.absolute w) ∨ i = .jsr w) : i.operandBytes = [lowByte w, highByte w] := by
  obtain rfl | rfl := h <;> rfl

/-! ## Modes -/

/-- LDX and STX alone have the Zero Page,Y mode (40_addressing.md R60). -/
theorem Instr.ldx_or_stx_of_mode_zeroPageY {i : Instr} (hwf : i.wellFormed = true)
    (hmode : i.mode = .zeroPageY) : ∃ m, i = .ldx (.memory m) ∨ i = .stx m := by
  have hadm : .zeroPageY ∈ i.admittedModes := by
    rw [← hmode]
    simp only [wellFormed, Bool.and_eq_true, List.contains_iff_mem] at hwf
    exact hwf.1
  cases i with
  | stx m => exact ⟨m, .inr rfl⟩
  | ldx src =>
    cases src with
    | immediate _ => cases hmode
    | memory m => exact ⟨m, .inl rfl⟩
  | _ => simp [admittedModes, accumulatorSourceModes, modifyModes] at hadm

/-- A closed fact about the 256 opcode bytes, for any operand bytes. -/
theorem decodeBytes_wellFormed (op b1 b2 : Byte) : (decodeBytes op b1 b2).wellFormed = true := by
  have hop : ∀ op : Byte, (decodeBytes op 0 0).wellFormed = true := by decide
  rw [decodeBytes_eq_fill, Instr.fill_wellFormed, hop]

end Sys2Proof

namespace Sys2Proof.Machine

/-! ## The operand bytes of a fetched instruction -/

/-- The operand bytes are the first of the two bytes after the opcode, as many as the length says. -/
theorem fetchInstr_operandBytes (s : State) :
    (fetchInstr s).operandBytes =
      [s.readByte (s.pc + 1#16), s.readByte (s.pc + 2#16)].take (fetchInstr s).operandBytes.length := by
  rw [fetchInstr, decodeBytes_eq_fill, Instr.fill_operandBytes]
  simp

theorem fetchInstr_of_operandByte {s : State} {v : Byte} (h : (fetchInstr s).operandBytes = [v]) :
    v = s.readByte (s.pc + 1#16) ∧ (fetchInstr s).length = 2 := by
  have hbytes := fetchInstr_operandBytes s
  rw [h] at hbytes
  exact ⟨(List.cons.inj hbytes).1, by rw [Instr.length, h]; rfl⟩

theorem fetchInstr_of_operandWord {s : State} {w : Word}
    (h : (fetchInstr s).operandBytes = [lowByte w, highByte w]) :
    w.toNat = (s.readByte (s.pc + 2#16)).toNat * 256 + (s.readByte (s.pc + 1#16)).toNat ∧
      (fetchInstr s).length = 3 := by
  have hbytes := fetchInstr_operandBytes s
  rw [h] at hbytes
  obtain ⟨hlow, hhigh⟩ : lowByte w = s.readByte (s.pc + 1#16) ∧ highByte w = s.readByte (s.pc + 2#16) := by
    simpa using hbytes
  exact ⟨by rw [← hlow, ← hhigh, ← word_toNat, word_high_low], by rw [Instr.length, h]; rfl⟩

/-! ## Effective addresses in exact integers -/

theorem zext16_add_toNat (base index : Byte) :
    (zext16 (base + index)).toNat = (base.toNat + index.toNat) % 256 := by
  rw [zext16_toNat, BitVec.toNat_add]

theorem add_zext16_toNat (base : Word) (index : Byte) :
    (base + zext16 index).toNat = (base.toNat + index.toNat) % 65536 := by
  rw [BitVec.toNat_add, zext16_toNat]

/-- Settles O32: the kind of the operand gives the operand bytes, the fetch says where they come from,
and each mode's address is a sum of the byte or word so read. -/
theorem addressingModes : Obligations.AddressingModes := by
  unfold Obligations.AddressingModes
  intro s
  refine ⟨fun v hv => fetchInstr_of_operandByte (Instr.operandBytes_of_immediateOperand hv),
    fun d hd => fetchInstr_of_operandByte (Instr.operandBytes_of_displacement hd),
    Instr.ldx_or_stx_of_mode_zeroPageY (decodeBytes_wellFormed _ _ _),
    fun w hw => fetchInstr_of_operandWord (Instr.operandBytes_of_absolute_target hw), ?memory⟩
  case memory =>
    intro m hm
    have hbytes := Instr.operandBytes_of_memOperand hm
    cases m with
    | zeroPage base =>
      obtain ⟨rfl, hlength⟩ := fetchInstr_of_operandByte hbytes
      exact ⟨zext16_toNat _, hlength⟩
    | zeroPageX base =>
      obtain ⟨rfl, hlength⟩ := fetchInstr_of_operandByte hbytes
      exact ⟨zext16_add_toNat _ _, hlength⟩
    | zeroPageY base =>
      obtain ⟨rfl, hlength⟩ := fetchInstr_of_operandByte hbytes
      exact ⟨zext16_add_toNat _ _, hlength⟩
    | absolute base => exact fetchInstr_of_operandWord hbytes
    | absoluteX base =>
      obtain ⟨hbase, hlength⟩ := fetchInstr_of_operandWord hbytes
      have haddr := add_zext16_toNat base s.x
      rw [hbase] at haddr
      exact ⟨haddr, hlength⟩
    | absoluteY base =>
      obtain ⟨hbase, hlength⟩ := fetchInstr_of_operandWord hbytes
      have haddr := add_zext16_toNat base s.y
      rw [hbase] at haddr
      exact ⟨haddr, hlength⟩
    | indexedIndirectX base =>
      obtain ⟨rfl, hlength⟩ := fetchInstr_of_operandByte hbytes
      exact ⟨congrArg (zpPtr · s) (BitVec.add_def _ _), hlength⟩
    | indirectIndexedY pointer =>
      obtain ⟨rfl, hlength⟩ := fetchInstr_of_operandByte hbytes
      exact ⟨add_zext16_toNat _ _, hlength⟩

end Sys2Proof.Machine
end

section
/-! PROOF. JMP through a pointer (40_addressing.md R64): the Indirect mode is one opcode byte's, and the
carry out of the pointer's low byte is lost. -/

namespace Sys2Proof

/-- A closed fact about the 256 opcode bytes, for any operand bytes. -/
theorem decodeBytes_mode_indirect_iff (op b1 b2 : Byte) :
    (decodeBytes op b1 b2).mode = .indirect ↔ op = 0x6C#8 := by
  have hop : ∀ op : Byte, (decodeBytes op 0 0).mode = .indirect ↔ op = 0x6C#8 := by decide
  rw [decodeBytes_eq_fill, Instr.fill_mode, hop]

end Sys2Proof

namespace Sys2Proof.Machine

theorem word_eq_ofNat (hi lo : Byte) : word hi lo = BitVec.ofNat 16 (hi.toNat * 256 + lo.toNat) := by
  rw [← word_toNat, BitVec.ofNat_toNat, BitVec.setWidth_eq]

/-- The page of an address, written as its high byte or as a mask. -/
theorem and_page_eq_word (p : Word) : p &&& 0xFF00#16 = word (highByte p) 0#8 :=
  calc p &&& 0xFF00#16
      = word (highByte p) (lowByte p) &&& word 0xFF#8 0#8 := by rw [word_high_low]; rfl
    _ = word (highByte p &&& 0xFF#8) (lowByte p &&& 0#8) := BitVec.and_append
    _ = word (highByte p) 0#8 := congrArg₂ word BitVec.and_allOnes BitVec.and_zero

/-- Inside a page the next address has the same high byte. -/
theorem word_succ_lowByte_of_ne {p : Word} (h : p.toNat % 256 ≠ 0xFF) :
    word (highByte p) (lowByte p + 1#8) = p + 1#16 := by
  apply BitVec.eq_of_toNat_eq
  rw [word_toNat, BitVec.toNat_add, BitVec.toNat_add, highByte_toNat, lowByte_toNat]
  simp only [BitVec.toNat_ofNat]
  omega

/-- At the last address of a page the low byte wraps and the high byte stays. -/
theorem word_succ_lowByte_of_eq {p : Word} (h : p.toNat % 256 = 0xFF) :
    word (highByte p) (lowByte p + 1#8) = p &&& 0xFF00#16 := by
  have hlow : lowByte p = 0xFF#8 := BitVec.eq_of_toNat_eq (by rw [lowByte_toNat, h]; rfl)
  rw [and_page_eq_word, hlow]
  rfl

/-- Settles O34: the target is a word of two bytes, and the high one's address is computed in the low
byte of the pointer alone. -/
theorem indirectJumpWrapsInPage : Obligations.IndirectJumpWrapsInPage := by
  unfold Obligations.IndirectJumpWrapsInPage
  refine ⟨decodeBytes_mode_indirect_iff, ?opcode, ?jump⟩
  case opcode =>
    rintro _ b1 b2 rfl
    exact ⟨rfl, by rw [← word_eq_ofNat]; rfl⟩
  case jump =>
    intro p s
    have hhigh : highByte (indirectTarget p s) = s.readByte (word (highByte p) (lowByte p + 1#8)) :=
      highByte_word _ _
    refine ⟨indirectTarget p s, exec_jmp (.indirect p) s, ?low, ?next, ?wrapped⟩
    case low => rw [← lowByte_toNat, indirectTarget, lowByte_word]
    case next => intro h; rw [← highByte_toNat, hhigh, word_succ_lowByte_of_ne h]
    case wrapped => intro h; rw [← highByte_toNat, hhigh, word_succ_lowByte_of_eq h]

end Sys2Proof.Machine
end

section
/-! PROOF. Increments and decrements (43_compare_incdec.md R86): the model adds or subtracts 1 in a byte,
which in exact integers is the sum with 1 or with 255, modulo 256; Z and N are `SetZN` of the result. -/

namespace Sys2Proof.Machine

/-! ## "with 8-bit wraparound" in exact integers -/

theorem byte_add_one_eq_ofNat (v : Byte) : v + 1#8 = BitVec.ofNat 8 ((v.toNat + 1) % 256) :=
  BitVec.eq_of_toNat_eq (by simp)

theorem byte_sub_one_eq_ofNat (v : Byte) : v - 1#8 = BitVec.ofNat 8 ((v.toNat + 255) % 256) :=
  BitVec.eq_of_toNat_eq (by simp [BitVec.toNat_sub, Nat.add_comm])

/-! ## The next states as record updates -/

theorem Flags.setZN_eq_update (f : Flags) (r : Byte) :
    f.setZN r = { f with z := decide (r = 0#8), n := r.getLsbD 7 } := rfl

/-- PC past an instruction with a memory operand is past its opcode and its mode's bytes. -/
theorem length_of_memOperand {i : Instr} {m : MemOperand} (h : i.memOperand = some m) :
    i.length = 1 + memSize m := by
  rw [Instr.length, Instr.operandBytes_of_memOperand h, length_memBytes, Nat.add_comm]

/-- The store is at the effective address of the state before, so it commutes with the writes of PC and
of the flags. -/
theorem resultToMemory_eq_writeByte (m : MemOperand) (r : Byte) (s : State) :
    resultToMemory m r s =
      { s with pc := s.pc + BitVec.ofNat 16 (1 + memSize m), flags := s.flags.setZN r }.writeByte
        (effectiveAddr m s) r := rfl

theorem advance_setX_setZN_eq_update (s : State) (n : Nat) (r : Byte) :
    ((s.advance n).setX r).setZN r =
      { s with pc := s.pc + BitVec.ofNat 16 n, x := r, flags := s.flags.setZN r } := rfl

theorem advance_setY_setZN_eq_update (s : State) (n : Nat) (r : Byte) :
    ((s.advance n).setY r).setZN r =
      { s with pc := s.pc + BitVec.ofNat 16 n, y := r, flags := s.flags.setZN r } := rfl

/-- Settles O43: with the sum or difference of R86 for the result, the answer of `exec` is the update of
memory, X or Y, of PC and of the flags. -/
theorem incrementsAndDecrements : Obligations.IncrementsAndDecrements := by
  unfold Obligations.IncrementsAndDecrements
  intro m s
  simp only [← Flags.setZN_eq_update, ← byte_add_one_eq_ofNat, ← byte_sub_one_eq_ofNat]
  refine ⟨?inc, ?dec, ?inx, ?iny, ?dex, ?dey⟩
  case inc => rw [exec_inc, resultToMemory_eq_writeByte, memValue, length_of_memOperand rfl]
  case dec => rw [exec_dec, resultToMemory_eq_writeByte, memValue, length_of_memOperand rfl]
  case inx => rw [exec_inx, advance_setX_setZN_eq_update]
  case iny => rw [exec_iny, advance_setY_setZN_eq_update]
  case dex => rw [exec_dex, advance_setX_setZN_eq_update]
  case dey => rw [exec_dey, advance_setY_setZN_eq_update]

end Sys2Proof.Machine
end

section
/-! PROOF. The conditional branches (44_branch_jump.md R93 to R101): PC alone changes, and the sum of PC + 2
and the sign-extended displacement is R93's target in exact integers, modulo 65536. -/

namespace Sys2Proof.Machine

theorem branchTarget_eq_ofInt (pc : Word) (d : Byte) :
    pc + 2#16 + sext16 d = BitVec.ofInt 16 ((pc.toNat : Int) + 2 + d.toInt) :=
  calc pc + 2#16 + sext16 d
      = BitVec.ofInt 16 pc.toNat + BitVec.ofInt 16 2 + BitVec.ofInt 16 d.toInt := by
        rw [BitVec.ofInt_natCast, BitVec.ofNat_toNat, BitVec.setWidth_eq]; rfl
    _ = BitVec.ofInt 16 ((pc.toNat : Int) + 2 + d.toInt) := by rw [BitVec.ofInt_add, BitVec.ofInt_add]

/-- `Branch(cond)` after the Relative mode as one update of PC (40_addressing.md R57). -/
theorem branch_advance_eq_update (cond : Bool) (d : Byte) (s : State) :
    branch cond d (s.advance 2) = { s with
      pc := if cond then BitVec.ofInt 16 ((s.pc.toNat : Int) + 2 + d.toInt) else s.pc + 2#16 } := by
  rw [← branchTarget_eq_ofInt, branch_eq]
  rfl

/-- Settles O44: each mnemonic is `Branch` on its flag or on the flag's negation, and a branch is one
update of PC. -/
theorem branchResults : Obligations.BranchResults := by
  unfold Obligations.BranchResults
  intro d s
  simp only [beq_true, beq_false, ← branch_advance_eq_update]
  exact ⟨exec_bpl d s, exec_bmi d s, exec_bvc d s, exec_bvs d s,
    exec_bcc d s, exec_bcs d s, exec_bne d s, exec_beq d s⟩

/-- Byte 0x90 of the opcode map is BCC with the byte after it (30_encoding.md R51). -/
theorem fetchInstr_of_bcc {s : State} (h : s.readByte s.pc = 0x90#8) :
    fetchInstr s = .bcc (s.readByte (s.pc + 1#16)) := by
  rw [fetchInstr, h]
  rfl

/-- Settles O45: the fetch gives BCC with the next byte, and its condition is C = 0. -/
theorem bccStep : Obligations.BccStep := by
  unfold Obligations.BccStep
  intro s h
  rw [step_eq, fetchInstr_of_bcc h, exec_bcc, branch_advance_eq_update]
  simp only [Bool.not_eq_true']

end Sys2Proof.Machine
end

section
/-! PROOF. The encoding (30_encoding.md R46, R47, R51, R53): the opcode byte and the Encoding tables
determine each other, and the operand bytes are filled in. So decode and encode are inverse, the opcode
byte decides the length, and the fetched bytes decode to the fetched instruction. -/

namespace Sys2Proof

open Sys2Proof.Machine

/-! ## Filling in operand bytes -/

@[simp] theorem MemOperand.fill_fill (m : MemOperand) (b1 b2 c1 c2 : Byte) :
    (m.fill b1 b2).fill c1 c2 = m.fill c1 c2 := by
  cases m <;> rfl

@[simp] theorem Source.fill_fill (src : Source) (b1 b2 c1 c2 : Byte) :
    (src.fill b1 b2).fill c1 c2 = src.fill c1 c2 := by
  cases src with
  | immediate _ => rfl
  | memory m => exact congrArg Source.memory (m.fill_fill b1 b2 c1 c2)

@[simp] theorem ShiftOperand.fill_fill (t : ShiftOperand) (b1 b2 c1 c2 : Byte) :
    (t.fill b1 b2).fill c1 c2 = t.fill c1 c2 := by
  cases t with
  | accumulator => rfl
  | memory m => exact congrArg ShiftOperand.memory (m.fill_fill b1 b2 c1 c2)

@[simp] theorem JumpOperand.fill_fill (t : JumpOperand) (b1 b2 c1 c2 : Byte) :
    (t.fill b1 b2).fill c1 c2 = t.fill c1 c2 := by
  cases t <;> rfl

/-- Of two fillings only the second counts. -/
@[simp] theorem Instr.fill_fill (i : Instr) (b1 b2 c1 c2 : Byte) :
    (i.fill b1 b2).fill c1 c2 = i.fill c1 c2 := by
  cases i <;> simp [Instr.fill]

theorem MemOperand.fill_bytes_append (m : MemOperand) (rest : List Byte) :
    m.fill ((m.bytes ++ rest).getD 0 0) ((m.bytes ++ rest).getD 1 0) = m := by
  cases m <;> simp [MemOperand.fill, MemOperand.bytes]

theorem Source.fill_bytes_append (src : Source) (rest : List Byte) :
    src.fill ((src.bytes ++ rest).getD 0 0) ((src.bytes ++ rest).getD 1 0) = src := by
  cases src with
  | immediate _ => rfl
  | memory m => exact congrArg Source.memory (m.fill_bytes_append rest)

theorem ShiftOperand.fill_bytes_append (t : ShiftOperand) (rest : List Byte) :
    t.fill ((t.bytes ++ rest).getD 0 0) ((t.bytes ++ rest).getD 1 0) = t := by
  cases t with
  | accumulator => rfl
  | memory m => exact congrArg ShiftOperand.memory (m.fill_bytes_append rest)

/-- An instruction filled with its own operand bytes, whatever stands after them, is itself. -/
theorem Instr.fill_operandBytes_append (i : Instr) (rest : List Byte) :
    i.fill ((i.operandBytes ++ rest).getD 0 0) ((i.operandBytes ++ rest).getD 1 0) = i := by
  cases i with
  | adc src | sbc src | and src | ora src | eor src | cmp src | cpx src | cpy src
  | lda src | ldx src | ldy src => exact congrArg _ (src.fill_bytes_append rest)
  | bit m | inc m | dec m | sta m | stx m | sty m => exact congrArg _ (m.fill_bytes_append rest)
  | asl t | lsr t | rol t | ror t => exact congrArg _ (t.fill_bytes_append rest)
  | jmp t => cases t <;> exact congrArg _ (congrArg _ (word_high_low _))
  | jsr w => exact congrArg _ (word_high_low w)
  | _ => rfl

/-- The bytes after the opcode are at most two (30_encoding.md R46). -/
theorem Instr.operandBytes_length_le (i : Instr) : i.operandBytes.length ≤ 2 := by
  have h := i.fill_operandBytes ((i.operandBytes ++ []).getD 0 0) ((i.operandBytes ++ []).getD 1 0)
  rw [i.fill_operandBytes_append []] at h
  exact (congrArg List.length h).trans_le (List.length_take_le' _ _)

@[simp] theorem Instr.fill_length (i : Instr) (b1 b2 : Byte) : (i.fill b1 b2).length = i.length := by
  have h := i.operandBytes_length_le
  rw [length, length, fill_operandBytes, List.length_take_of_le h]

/-! ## The opcode map and the Encoding tables -/

/-- WellFormed.lean and the Encoding tables admit the same terms. -/
theorem Instr.wellFormed_eq_opcode_isSome : ∀ i : Instr, i.wellFormed = i.opcode.isSome
  | .adc x => Laws.Encodes.adc x | .sbc x => Laws.Encodes.sbc x | .and x => Laws.Encodes.and x
  | .ora x => Laws.Encodes.ora x | .eor x => Laws.Encodes.eor x | .bit x => Laws.Encodes.bit x
  | .asl x => Laws.Encodes.asl x | .lsr x => Laws.Encodes.lsr x | .rol x => Laws.Encodes.rol x
  | .ror x => Laws.Encodes.ror x | .cmp x => Laws.Encodes.cmp x | .cpx x => Laws.Encodes.cpx x
  | .cpy x => Laws.Encodes.cpy x | .inc x => Laws.Encodes.inc x | .dec x => Laws.Encodes.dec x
  | .inx => Laws.Encodes.inx | .iny => Laws.Encodes.iny | .dex => Laws.Encodes.dex
  | .dey => Laws.Encodes.dey | .bpl x => Laws.Encodes.bpl x | .bmi x => Laws.Encodes.bmi x
  | .bvc x => Laws.Encodes.bvc x | .bvs x => Laws.Encodes.bvs x | .bcc x => Laws.Encodes.bcc x
  | .bcs x => Laws.Encodes.bcs x | .bne x => Laws.Encodes.bne x | .beq x => Laws.Encodes.beq x
  | .jmp x => Laws.Encodes.jmp x | .jsr x => Laws.Encodes.jsr x | .rts => Laws.Encodes.rts
  | .pha => Laws.Encodes.pha | .pla => Laws.Encodes.pla | .php => Laws.Encodes.php
  | .plp => Laws.Encodes.plp | .clc => Laws.Encodes.clc | .sec => Laws.Encodes.sec
  | .cli => Laws.Encodes.cli | .sei => Laws.Encodes.sei | .cld => Laws.Encodes.cld
  | .sed => Laws.Encodes.sed | .clv => Laws.Encodes.clv | .tax => Laws.Encodes.tax
  | .tay => Laws.Encodes.tay | .txa => Laws.Encodes.txa | .tya => Laws.Encodes.tya
  | .tsx => Laws.Encodes.tsx | .txs => Laws.Encodes.txs | .brk => Laws.Encodes.brk
  | .rti => Laws.Encodes.rti | .lda x => Laws.Encodes.lda x | .ldx x => Laws.Encodes.ldx x
  | .ldy x => Laws.Encodes.ldy x | .sta x => Laws.Encodes.sta x | .stx x => Laws.Encodes.stx x
  | .sty x => Laws.Encodes.sty x | .nop => Laws.Encodes.nop
  | .undocumented x => Laws.Encodes.undocumented x

theorem opcode_undocumented_eq_some_iff {o op : Byte} :
    (Instr.undocumented o).opcode = some op ↔ o = op ∧ op ∈ undocumentedOpcodes := by
  by_cases ho : o ∈ undocumentedOpcodes
  · have hcode : (Instr.undocumented o).opcode = some o := by
      simp [Instr.opcode, Instr.encodingTable, Instr.mode, ho]
    rw [hcode, Option.some_inj, iff_self_and]
    rintro rfl
    exact ho
  · have hcode : (Instr.undocumented o).opcode = none := by
      simp [Instr.opcode, Instr.encodingTable, ho]
    rw [hcode]
    refine iff_of_false nofun ?_
    rintro ⟨rfl, h⟩
    exact ho h

/-- The opcode map gives back the instruction whose Encoding table lists the byte, cell by cell. -/
theorem decodeBytes_of_opcode {i : Instr} {op : Byte} (h : i.opcode = some op) (b1 b2 : Byte) :
    decodeBytes op b1 b2 = i.fill b1 b2 := by
  have hmap : decodeBytes op 0 0 = i.fill 0 0 := by
    cases i with
    | adc src | sbc src | and src | ora src | eor src | cmp src | cpx src | cpy src
    | lda src | ldx src | ldy src =>
      cases src with
      | immediate _ => cases h; rfl
      | memory m => cases m <;> cases h <;> rfl
    | bit m | inc m | dec m | sta m | stx m | sty m => cases m <;> cases h <;> rfl
    | asl t | lsr t | rol t | ror t =>
      cases t with
      | accumulator => cases h; rfl
      | memory m => cases m <;> cases h <;> rfl
    | jmp t => cases t <;> cases h <;> rfl
    | undocumented o =>
      obtain ⟨rfl, ho⟩ := opcode_undocumented_eq_some_iff.mp h
      have hslots : ∀ op ∈ undocumentedOpcodes, decodeBytes op 0 0 = .undocumented op := by decide
      exact hslots o ho
    | _ => cases h; rfl
  rw [decodeBytes_eq_fill, hmap, Instr.fill_fill]

/-- A closed fact about the 256 opcode bytes, for any operand bytes. -/
@[simp] theorem opcode_decodeBytes (op b1 b2 : Byte) : (decodeBytes op b1 b2).opcode = some op := by
  have hop : ∀ op : Byte, (decodeBytes op 0 0).opcode = some op := by decide
  rw [decodeBytes_eq_fill, Instr.fill_opcode, hop]

theorem encode_of_opcode {i : Instr} {op : Byte} (h : i.opcode = some op) :
    encode i = op :: i.operandBytes := by
  rw [encode, h]

/-- The decoder on an opcode of `i` and enough bytes after it: `i` with those bytes filled in. -/
theorem decode_of_opcode {i : Instr} {op : Byte} {bytes : List Byte} (h : i.opcode = some op)
    (hlen : i.operandBytes.length ≤ bytes.length) :
    decode (op :: bytes) =
      .ok (i.fill (bytes.getD 0 0) (bytes.getD 1 0), bytes.drop i.operandBytes.length) := by
  have hlength : (decodeBytes op 0 0).length = i.operandBytes.length + 1 := by
    rw [decodeBytes_of_opcode h, Instr.fill_length, Instr.length]
  rw [decode, hlength, if_neg (by omega), decodeBytes_of_opcode h, Nat.add_sub_cancel]

/-- Settles O1: the Encoding table's byte leads back to the operation and mode, and the operand bytes
fill them in again. -/
theorem decodeOfEncode : Obligations.DecodeOfEncode := by
  unfold Obligations.DecodeOfEncode
  intro i rest hwf
  obtain ⟨op, hop⟩ := Option.isSome_iff_exists.mp (i.wellFormed_eq_opcode_isSome ▸ hwf)
  rw [encode_of_opcode hop, List.cons_append, decode_of_opcode hop (by simp),
    Instr.fill_operandBytes_append, List.drop_left]

/-- Settles O2: the decoded instruction has the byte it was read at for opcode, and the bytes it was
filled with for operand bytes. -/
theorem encodeOfDecode : Obligations.EncodeOfDecode := by
  unfold Obligations.EncodeOfDecode
  intro op b1 b2
  refine ⟨decodeBytes_wellFormed op b1 b2, ?_⟩
  rw [encode_of_opcode (opcode_decodeBytes op b1 b2), Instr.length, List.take_succ_cons]
  rw [decodeBytes_eq_fill, Instr.fill_operandBytes]
  simp

/-- Settles O4: the opcode byte decides all but the operand bytes, and another filling has the same
length. -/
theorem opcodeAloneDecidesLength : Obligations.OpcodeAloneDecidesLength := by
  unfold Obligations.OpcodeAloneDecidesLength
  intro op b1 b2 c1 c2
  have hle := (decodeBytes op b1 b2).operandBytes_length_le
  refine ⟨?same, Nat.le_add_left 1 _, Nat.succ_le_succ hle⟩
  case same =>
    rw [decodeBytes_eq_fill op b1, decodeBytes_eq_fill op c1, Instr.fill_length, Instr.fill_length]

theorem decodeBytes_eq_undocumented_iff {op b1 b2 o : Byte} :
    decodeBytes op b1 b2 = .undocumented o ↔ o = op ∧ op ∈ undocumentedOpcodes := by
  constructor
  · intro h
    exact opcode_undocumented_eq_some_iff.mp (h ▸ opcode_decodeBytes op b1 b2)
  · intro h
    exact decodeBytes_of_opcode (opcode_undocumented_eq_some_iff.mpr h) b1 b2

/-- Settles O5: the list is a closed fact; the placeholder's Encoding table says which bytes decode to it,
and its meaning is one move of PC. -/
theorem undocumentedSlotsAreOneByteNoOps : Obligations.UndocumentedSlotsAreOneByteNoOps := by
  unfold Obligations.UndocumentedSlotsAreOneByteNoOps
  refine ⟨rfl, by decide, fun op b1 b2 o => decodeBytes_eq_undocumented_iff, ?step⟩
  case step =>
    intro s h
    have hfetch : fetchInstr s = .undocumented (s.readByte s.pc) :=
      decodeBytes_eq_undocumented_iff.mpr ⟨rfl, h⟩
    rw [step_eq, hfetch, exec_undocumented]
    rfl

/-- Settles O3: each word is decoded by evaluation. -/
theorem sampleWordsDecode : Obligations.SampleWordsDecode := by
  unfold Obligations.SampleWordsDecode
  exact ⟨rfl, rfl, rfl, rfl, rfl, rfl, rfl, rfl, rfl, rfl, rfl⟩

end Sys2Proof

namespace Sys2Proof.Machine

/-! ## The fetch -/

/-- The three bytes of a fetch are enough for every opcode byte, so they decode to the fetched
instruction. -/
theorem decode_fetchBytes (s : State) :
    decode (fetchBytes s) = .ok (fetchInstr s,
      [s.readByte (s.pc + 1#16), s.readByte (s.pc + 2#16)].drop (fetchInstr s).operandBytes.length) := by
  have hop : (fetchInstr s).opcode = some (s.readByte s.pc) := opcode_decodeBytes _ _ _
  rw [fetchBytes, decode_of_opcode hop (Instr.operandBytes_length_le _), ← decodeBytes_of_opcode hop]
  rfl

/-- Settles O6: what the fetched bytes decode to is the fetched instruction. -/
theorem stepRunsDecodedInstruction : Obligations.StepRunsDecodedInstruction := by
  unfold Obligations.StepRunsDecodedInstruction
  intro s i rest hdecode _
  rw [decode_fetchBytes] at hdecode
  cases hdecode
  exact step_eq s

/-- Settles O7: the witnesses are the fetched instruction, the bytes the fetch did not use, and the next
state. -/
theorem everyStepCompletes : Obligations.EveryStepCompletes := by
  unfold Obligations.EveryStepCompletes
  intro s
  exact ⟨fetchInstr s, _, nextState (fetchInstr s) s, decode_fetchBytes s,
    decodeBytes_wellFormed _ _ _, step_eq s, exec_eq_next _ s⟩

end Sys2Proof.Machine
end

section
/-! PROOF. The host port on registers and flags (10_state.md R14 to R16, R21). -/

namespace Sys2Proof.Machine

/-- A closed fact about the 256 bytes (10_state.md R16). -/
@[simp] theorem Flags.pack_unpack (v : Byte) : (Flags.unpack v).pack = v := by
  have h : ∀ v : Byte, (Flags.unpack v).pack = v := by decide
  exact h v

/-- A closed fact about the 256 values of the eight flags (10_state.md R14). -/
theorem Flags.pack_toNat (f : Flags) :
    f.pack.toNat = f.n.toNat * 128 + f.v.toNat * 64 + f.u.toNat * 32 + f.b.toNat * 16 +
      f.d.toNat * 8 + f.i.toNat * 4 + f.z.toNat * 2 + f.c.toNat := by
  rcases f with ⟨n, v, u, b, d, i, z, c⟩
  revert n v u b d i z c
  decide

/-- Settles O24: `Pack()` and `Unpack(v)` are inverse, and the host operations apply them to the flags
alone. -/
theorem flagsRoundTrip : Obligations.FlagsRoundTrip := by
  unfold Obligations.FlagsRoundTrip
  intro s v
  exact ⟨congrArg s.setFlags s.flags.unpack_pack, Flags.pack_unpack v, rfl⟩

@[simp] theorem hostSetField_mem (s : State) (f : Field) (w : BitVec (fieldWidth f)) :
    (hostSetField s f w).mem = s.mem := by
  cases f <;> rfl

theorem hostGetField_hostSetField_same (s : State) (f : Field) (w : BitVec (fieldWidth f)) :
    hostGetField (hostSetField s f w) f = w := by
  have hbit : ∀ w : BitVec 1, BitVec.ofBool (w.getLsbD 0) = w := by decide
  cases f with
  | a | x | y | sp | pc => rfl
  | c | z | i | d | b | u | v | n => exact hbit w

theorem hostGetField_hostSetField_of_ne (s : State) {f g : Field} (w : BitVec (fieldWidth f))
    (h : g ≠ f) : hostGetField (hostSetField s f w) g = hostGetField s g := by
  cases f <;> cases g <;> simp at h <;> rfl

/-- Settles O25: the field written, memory, and each other field. -/
theorem hostFieldAccess : Obligations.HostFieldAccess := by
  unfold Obligations.HostFieldAccess
  intro s f w
  exact ⟨hostGetField_hostSetField_same s f w, hostSetField_mem s f w,
    fun _ h => hostGetField_hostSetField_of_ne s w h⟩

end Sys2Proof.Machine
end

section
/-! PROOF. Sequences of byte writes, the loader and the canonical form of memory (20_memory.md R24, R27,
R30, R31), and the zero-page pointer (40_addressing.md R65). -/

namespace Sys2Proof.Machine

namespace State

/-! ## Sequences of writes -/

theorem readByte_writeAll (s : State) (writes : List (Word × Byte)) (addr : Word) :
    (s.writeAll writes).readByte addr = (lastWritten addr writes).getD (s.readByte addr) := by
  induction writes generalizing s with
  | nil => rfl
  | cons w rest ih =>
    obtain ⟨k, v⟩ := w
    rw [writeAll, ih, lastWritten, readByte_writeByte]
    cases lastWritten addr rest with
    | some u => rfl
    | none => by_cases hk : k = addr <;> simp [hk]

theorem readByte_writeAll_of_not_mem (s : State) {writes : List (Word × Byte)} {addr : Word}
    (h : ∀ w ∈ writes, w.1 ≠ addr) : (s.writeAll writes).readByte addr = s.readByte addr := by
  induction writes generalizing s with
  | nil => rfl
  | cons w rest ih =>
    rw [List.forall_mem_cons] at h
    rw [writeAll, ih _ h.2, readByte_writeByte_other _ _ h.1]

theorem writeAll_wf {s : State} (writes : List (Word × Byte)) (h : s.mem.wf = true) :
    (s.writeAll writes).mem.wf = true := by
  induction writes generalizing s with
  | nil => exact h
  | cons w rest ih => exact ih (writeByte_wf w.1 w.2 h)

/-! ## The loader -/

/-- An address the image does not cover keeps its byte. -/
theorem readByte_loadProgram_other (s : State) {bytes : List Byte} {base b : Word}
    (h : ∀ k, k < bytes.length → b ≠ base + BitVec.ofNat 16 k) :
    (s.loadProgram bytes base).readByte b = s.readByte b := by
  induction bytes generalizing s base with
  | nil => rfl
  | cons v rest ih =>
    have hbase : base ≠ b := by simpa using (h 0 (Nat.succ_pos _)).symm
    have hrest : ∀ k, k < rest.length → b ≠ base + 1#16 + BitVec.ofNat 16 k := by
      intro k hk
      have hb := h (k + 1) (Nat.succ_lt_succ hk)
      rwa [Nat.add_comm, BitVec.ofNat_add, ← add_assoc] at hb
    rw [loadProgram, ih _ hrest, readByte_writeByte_other _ _ hbase]

/-- In an image of at most 65,536 bytes no later byte lands on the first. -/
theorem readByte_loadProgram (s : State) {bytes : List Byte} {base : Word} (hlen : bytes.length ≤ 65536)
    {k : Nat} (h : k < bytes.length) :
    (s.loadProgram bytes base).readByte (base + BitVec.ofNat 16 k) = bytes[k] := by
  induction bytes generalizing s base k with
  | nil => exact absurd h (Nat.not_lt_zero k)
  | cons v rest ih =>
    rw [List.length_cons] at hlen h
    cases k with
    | zero =>
      have hother : ∀ k, k < rest.length → base ≠ base + 1#16 + BitVec.ofNat 16 k := by
        intro k hk he
        rw [add_assoc, ← BitVec.ofNat_add, left_eq_add] at he
        have hnat : (1 + k) % 65536 = 0 := by simpa using congrArg BitVec.toNat he
        omega
      rw [BitVec.add_zero, loadProgram, readByte_loadProgram_other _ hother, readByte_writeByte_same]
      rfl
    | succ k =>
      have haddr : base + BitVec.ofNat 16 (k + 1) = base + 1#16 + BitVec.ofNat 16 k := by
        rw [Nat.add_comm, BitVec.ofNat_add, ← add_assoc]
      rw [haddr, loadProgram]
      exact ih _ (Nat.le_of_succ_le hlen) (Nat.lt_of_succ_lt_succ h)

end State

/-- Settles O27: the read after any writes, from any state and from reset, where every byte is 0. -/
theorem readReturnsLastWritten : Obligations.ReadReturnsLastWritten := by
  unfold Obligations.ReadReturnsLastWritten
  intro s writes addr
  exact ⟨s.readByte_writeAll writes addr, State.readByte_writeAll _ writes addr⟩

/-- Settles O29: the loaded bytes, the others, and the frame. -/
theorem loadProgramPlacesBytes : Obligations.LoadProgramPlacesBytes := by
  unfold Obligations.LoadProgramPlacesBytes
  intro s bytes base hlen
  obtain ⟨ha, hx, hy, hsp, hpc, hflags⟩ := s.loadProgram_frame bytes base
  exact ⟨fun k hk => s.readByte_loadProgram hlen hk, fun b hb => s.readByte_loadProgram_other hb,
    hpc, hsp, ha, hx, hy, hflags⟩

/-! ## The canonical form -/

/-- Settles O9: reset lists no byte. -/
theorem resetMeetsInvariant : Obligations.ResetMeetsInvariant := by
  unfold Obligations.ResetMeetsInvariant
  exact Memory.nil_wf

/-- Settles O31: canonical memories agree inside the address space by the reads and outside it by the
canonical form, so they are the same list. -/
theorem equalReadsMakeEqualStates : Obligations.EqualReadsMakeEqualStates := by
  unfold Obligations.EqualReadsMakeEqualStates
  intro s t hs ht ha hx hy hsp hpc hflags hreads
  have hmem : ∀ addr, s.mem.read addr = t.mem.read addr := by
    intro addr
    obtain hin | hout := Nat.lt_or_ge addr 65536
    · have h := hreads (BitVec.ofNat 16 addr)
      rwa [hostRead, hostRead, State.readByte, State.readByte, BitVec.toNat_ofNat,
        Nat.mod_eq_of_lt hin] at h
    · rw [Memory.read_outside hs hout, Memory.read_outside ht hout]
  exact State.eq_of_fields ha hx hy hsp hpc hflags (Memory.eq_of_wf hs ht hmem)

/-! ## The zero-page pointer -/

theorem zext16_add_one_eq_ofNat (q : Byte) : zext16 q + 1#16 = BitVec.ofNat 16 (q.toNat + 1) := by
  rw [BitVec.ofNat_add, BitVec.ofNat_toNat, zext16]

/-- Settles O33: the pointer is a word of two bytes; the definition gives the address of each. -/
theorem zeroPagePointer : Obligations.ZeroPagePointer := by
  unfold Obligations.ZeroPagePointer
  intro q s
  rw [← lowByte_toNat, ← highByte_toNat, zpPtr, zpPtrFor, lowByte_word, highByte_word]
  refine ⟨by rw [BitVec.ofNat_toNat, zext16], ?inside, ?last⟩
  case inside => intro hq; rw [if_neg hq, zext16_add_one_eq_ofNat]
  case last => intro hq; rw [if_pos hq]

end Sys2Proof.Machine
end

section
/-! PROOF. The stack (20_memory.md R32 to R34): the addresses pushes and pulls use, each push and pull as
writes of the state's fields, and the instructions made of them (44_branch_jump.md R102 to R104;
45_stack.md; 47_interrupt.md). -/

namespace Sys2Proof.Machine

/-! ## The bytes of a word in exact integers -/

theorem highByte_eq_ofNat (w : Word) : highByte w = BitVec.ofNat 8 (w.toNat / 256) := by
  rw [← highByte_toNat, BitVec.ofNat_toNat, BitVec.setWidth_eq]

theorem lowByte_eq_ofNat (w : Word) : lowByte w = BitVec.ofNat 8 (w.toNat % 256) := by
  rw [← lowByte_toNat, BitVec.ofNat_toNat, BitVec.setWidth_eq]

theorem word_add_one_eq_ofNat (hi lo : Byte) :
    word hi lo + 1#16 = BitVec.ofNat 16 (hi.toNat * 256 + lo.toNat + 1) := by
  rw [word_eq_ofNat, ← BitVec.ofNat_add]

/-! ## Stack addresses -/

theorem word_stackPage (b : Byte) : word Config.stackPage b = 0x0100#16 + b.setWidth 16 := by
  apply BitVec.eq_of_toNat_eq
  have hb := b.isLt
  rw [word_toNat, BitVec.toNat_add, BitVec.toNat_setWidth]
  simp only [Config.stackPage, BitVec.toNat_ofNat]
  omega

theorem word_stackPage_ne {w : Word} (h : highByte w ≠ Config.stackPage) (b : Byte) :
    word Config.stackPage b ≠ w := by
  rintro rfl
  exact h (highByte_word _ _)

theorem ofNat_byte_inj {j k : Nat} (hj : j < 256) (hk : k < 256) :
    BitVec.ofNat 8 j = BitVec.ofNat 8 k ↔ j = k := by
  rw [← BitVec.toNat_inj, BitVec.toNat_ofNat, BitVec.toNat_ofNat, Nat.mod_eq_of_lt hj,
    Nat.mod_eq_of_lt hk]

namespace State

theorem stackByteAddr_zero (s : State) : s.stackByteAddr 0 = s.stackAddr :=
  congrArg (word Config.stackPage) (sub_zero s.sp)

theorem stackByteAddr_inj (s : State) {j k : Nat} (hj : j < 256) (hk : k < 256) :
    s.stackByteAddr j = s.stackByteAddr k ↔ j = k := by
  simp [stackByteAddr, word_inj, sub_right_inj, ofNat_byte_inj hj hk]

/-- From an SP that is `m + k` pushes down, the byte `m` up is the one `k` pushes down. -/
theorem word_stackPage_of_sp {s t : State} (m k : Nat) (h : t.sp = s.sp - BitVec.ofNat 8 (m + k)) :
    word Config.stackPage (t.sp + BitVec.ofNat 8 m) = s.stackByteAddr k := by
  rw [stackByteAddr, h, BitVec.ofNat_add, ← sub_sub, sub_right_comm, sub_add_cancel]

/-! ## Pushes and pulls as writes of fields -/

theorem push_eq (s : State) (v : Byte) :
    s.push v = (s.writeByte (s.stackByteAddr 0) v).setSp (s.sp - 1#8) := by
  rw [stackByteAddr_zero, push]

/-- The high byte goes to the byte SP names, the low byte to the one below. -/
theorem pushWord_eq (s : State) (v : Word) :
    s.pushWord v = ((s.writeByte (s.stackByteAddr 0) (highByte v)).writeByte (s.stackByteAddr 1)
      (lowByte v)).setSp (s.sp - 2#8) := by
  have hsp : s.sp - 2#8 = s.sp - 1#8 - 1#8 := (sub_sub s.sp 1#8 1#8).symm
  rw [stackByteAddr_zero, hsp]
  rfl

/-- The vector is read after the pushes, which do not reach it when it lies outside the stack page. -/
theorem takeTrap_eq (s : State) (ret vector : Word) (hlow : highByte vector ≠ Config.stackPage)
    (hhigh : highByte (vector + 1#16) ≠ Config.stackPage) :
    s.takeTrap ret vector = (((((s.writeByte (s.stackByteAddr 0) (highByte ret)).writeByte
      (s.stackByteAddr 1) (lowByte ret)).writeByte (s.stackByteAddr 2)
        ({ s.flags with i := true } : Flags).pushed).setSp (s.sp - 3#8)).setFlags
          { s.flags with i := true, b := false }).setPc (s.readWord vector) := by
  have hsp2 : s.sp - 2#8 = s.sp - 1#8 - 1#8 := (sub_sub s.sp 1#8 1#8).symm
  have hsp3 : s.sp - 3#8 = s.sp - 1#8 - 1#8 - 1#8 := by rw [← hsp2]; exact (sub_sub s.sp 2#8 1#8).symm
  have hvector : (s.takeTrap ret vector).pc = s.readWord vector := by
    simp [takeTrap, pushWord, readWord, readByte_push, stackAddr, word_stackPage_ne hlow,
      word_stackPage_ne hhigh]
  rw [← hvector, hsp3, stackByteAddr_zero, stackByteAddr, stackByteAddr, hsp2]
  rfl

theorem pulledWord_eq (s : State) : s.pulledWord = s.setSp (s.sp + 2#8) :=
  congrArg s.setSp (add_assoc s.sp 1#8 1#8)

/-- Three pulls: the flags, then the low and the high byte of PC (47_interrupt.md R126). -/
theorem returnFromTrap_eq (s : State) :
    s.returnFromTrap = ((s.setSp (s.sp + 3#8)).setFlags
      { Flags.unpack (s.readByte (word Config.stackPage (s.sp + 1#8))) with b := false, u := false }).setPc
        (word (s.readByte (word Config.stackPage (s.sp + 3#8)))
          (s.readByte (word Config.stackPage (s.sp + 2#8)))) := by
  have hsp2 : s.sp + 2#8 = s.sp + 1#8 + 1#8 := (add_assoc s.sp 1#8 1#8).symm
  have hsp3 : s.sp + 3#8 = s.sp + 1#8 + 2#8 := (add_assoc s.sp 1#8 2#8).symm
  rw [returnFromTrap, pulledWord_eq, pullWordValue_eq, pullValue_eq, hsp2, hsp3]
  rfl

end State

/-! ## The instructions as writes of fields -/

theorem exec_jsr_eq (target : Word) (s : State) :
    exec (.jsr target) s = .next ((((s.writeByte (s.stackByteAddr 0) (highByte (s.pc + 2#16))).writeByte
      (s.stackByteAddr 1) (lowByte (s.pc + 2#16))).setSp (s.sp - 2#8)).setPc target) := by
  have hret : (s.advance 3).pc - 1#16 = s.pc + 2#16 := add_sub_assoc _ _ _
  rw [exec_jsr, hret, State.pushWord_eq]
  rfl

theorem exec_rts_eq (s : State) :
    exec .rts s = .next ((s.setSp (s.sp + 2#8)).setPc
      (word (s.readByte (word Config.stackPage (s.sp + 2#8)))
        (s.readByte (word Config.stackPage (s.sp + 1#8))) + 1#16)) := by
  rw [exec_rts, State.pulledWord_eq, State.pullWordValue_eq]

theorem exec_pha_eq (s : State) :
    exec .pha s = .next (((s.writeByte (s.stackByteAddr 0) s.a).setSp (s.sp - 1#8)).setPc
      (s.pc + 1#16)) := by
  rw [exec_pha, State.push_eq]
  rfl

theorem exec_php_eq (s : State) :
    exec .php s = .next (((s.writeByte (s.stackByteAddr 0) s.flags.pushed).setSp (s.sp - 1#8)).setPc
      (s.pc + 1#16)) := by
  rw [exec_php, State.push_eq]
  rfl

theorem exec_brk_eq (s : State) :
    exec .brk s = .next ((((((s.writeByte (s.stackByteAddr 0) (highByte (s.pc + 2#16))).writeByte
      (s.stackByteAddr 1) (lowByte (s.pc + 2#16))).writeByte (s.stackByteAddr 2)
        ({ s.flags with i := true } : Flags).pushed).setSp (s.sp - 3#8)).setFlags
          { s.flags with i := true, b := false }).setPc (s.readWord Config.brkVector)) := by
  rw [exec_brk, State.takeTrap_eq _ _ _ (by decide) (by decide)]
  rfl

/-- Settles O46: the pushed bytes are the high and the low byte of the return address. -/
theorem jmpAndJsrResults : Obligations.JmpAndJsrResults := by
  unfold Obligations.JmpAndJsrResults
  intro target s
  simp only [← highByte_eq_ofNat, ← lowByte_eq_ofNat]
  exact ⟨exec_jmp (.absolute target) s, exec_jsr_eq target s⟩

/-- Settles O47: the statement's sum is the pulled word plus 1. -/
theorem rtsResult : Obligations.RtsResult := by
  unfold Obligations.RtsResult
  intro s
  simp only [← word_stackPage, ← word_add_one_eq_ofNat]
  exact exec_rts_eq s

/-- Settles O49: one push or pull, at the statement's address. -/
theorem phaAndPlaResults : Obligations.PhaAndPlaResults := by
  unfold Obligations.PhaAndPlaResults
  intro s
  simp only [← word_stackPage]
  exact ⟨exec_pha s, exec_pla s⟩

/-- Settles O50: one push or pull, at the statement's address. -/
theorem phpAndPlpResults : Obligations.PhpAndPlpResults := by
  unfold Obligations.PhpAndPlpResults
  intro s
  simp only [← word_stackPage]
  exact ⟨exec_php s, exec_plp s⟩

/-- Settles O54: the trap's writes with BRK's return address and vector. -/
theorem brkResult : Obligations.BrkResult := by
  unfold Obligations.BrkResult
  intro s
  simp only [← highByte_eq_ofNat, ← lowByte_eq_ofNat, ← word_eq_ofNat]
  exact exec_brk_eq s

/-- Settles O55: three pulls, at the statement's addresses. -/
theorem rtiResult : Obligations.RtiResult := by
  unfold Obligations.RtiResult
  intro s
  simp only [← word_stackPage, ← word_eq_ofNat]
  exact congrArg Host.Outcome.next s.returnFromTrap_eq

/-! ## The pushed bytes, read back -/

theorem pushed_of_exec_jsr {target : Word} {s t : State} (h : exec (.jsr target) s = .next t) :
    t.sp = s.sp - 2#8 ∧ t.readByte (s.stackByteAddr 0) = highByte (s.pc + 2#16) ∧
      t.readByte (s.stackByteAddr 1) = lowByte (s.pc + 2#16) := by
  rw [exec_jsr_eq] at h
  obtain rfl := Host.Outcome.next.inj h
  simp [State.readByte_writeByte, State.stackByteAddr_inj]

theorem pushed_of_exec_php {s t : State} (h : exec .php s = .next t) :
    t.sp = s.sp - 1#8 ∧ t.readByte (s.stackByteAddr 0) = s.flags.pushed := by
  rw [exec_php_eq] at h
  obtain rfl := Host.Outcome.next.inj h
  simp

theorem pushed_of_exec_brk {s t : State} (h : exec .brk s = .next t) :
    t.sp = s.sp - 3#8 ∧ t.readByte (s.stackByteAddr 0) = highByte (s.pc + 2#16) ∧
      t.readByte (s.stackByteAddr 1) = lowByte (s.pc + 2#16) ∧
      t.readByte (s.stackByteAddr 2) = ({ s.flags with i := true } : Flags).pushed := by
  rw [exec_brk_eq] at h
  obtain rfl := Host.Outcome.next.inj h
  simp [State.readByte_writeByte, State.stackByteAddr_inj]

/-- Settles O23: the packed byte as a sum, and the status bytes pushed. -/
theorem packedStatusLayout : Obligations.PackedStatusLayout := by
  unfold Obligations.PackedStatusLayout
  intro s
  obtain ⟨-, hphp⟩ := pushed_of_exec_php (exec_eq_next .php s)
  obtain ⟨-, -, -, hbrk⟩ := pushed_of_exec_brk (exec_eq_next .brk s)
  exact ⟨s.flags.pack_toNat, ⟨_, exec_eq_next .php s, hphp⟩, _, exec_eq_next .brk s, hbrk⟩

/-- Settles O48: RTS pulls the word JSR pushed, the address of JSR's last byte. -/
theorem subroutineReturns : Obligations.SubroutineReturns := by
  unfold Obligations.SubroutineReturns
  intro target s called inside hcall hsp hhigh hlow
  obtain ⟨hsp', hhigh', hlow'⟩ := pushed_of_exec_jsr hcall
  rw [hsp'] at hsp
  have hpc : s.pc + 2#16 + 1#16 = s.pc + 3#16 := add_assoc s.pc 2#16 1#16
  have hback : inside.sp + 2#8 = s.sp := by rw [hsp, sub_add_cancel]
  rw [exec_rts_eq, State.word_stackPage_of_sp 2 0 hsp, State.word_stackPage_of_sp 1 1 hsp, hhigh,
    hhigh', hlow, hlow', word_high_low, hpc, hback]
  rfl

/-- Settles O51: PLP pulls the byte PHP pushed, which unpacks to the stored flags with B and U set. -/
theorem phpThenPlp : Obligations.PhpThenPlp := by
  unfold Obligations.PhpThenPlp
  intro s pushed between hpush hsp hstatus
  obtain ⟨hsp', hstatus'⟩ := pushed_of_exec_php hpush
  rw [hsp'] at hsp
  have hback : between.sp + 1#8 = s.sp := by rw [hsp, sub_add_cancel]
  rw [exec_plp, State.pullValue_eq, State.word_stackPage_of_sp 1 0 hsp, hstatus, hstatus',
    Flags.unpack_pushed, ← hback]
  rfl

/-- Settles O56: RTI pulls the status byte and the return address BRK pushed. -/
theorem trapReturns : Obligations.TrapReturns := by
  unfold Obligations.TrapReturns
  intro s entered inside htrap hsp hstack
  obtain ⟨hsp', hhigh, hlow, hstatus⟩ := pushed_of_exec_brk htrap
  rw [hsp'] at hsp
  have hback : inside.sp + 3#8 = s.sp := by rw [hsp, sub_add_cancel]
  rw [exec_rti, State.returnFromTrap_eq, State.word_stackPage_of_sp 3 0 hsp,
    State.word_stackPage_of_sp 2 1 hsp, State.word_stackPage_of_sp 1 2 hsp,
    hstack 0 (by decide), hstack 1 (by decide), hstack 2 (by decide),
    hhigh, hlow, hstatus, word_high_low, Flags.unpack_pushed, hback]
  rfl

/-! ## Several pushes and pulls -/

namespace State

theorem pushAll_concat (s : State) (values : List Byte) (v : Byte) :
    s.pushAll (values ++ [v]) = (s.pushAll values).push v := by
  induction values generalizing s with
  | nil => rfl
  | cons u rest ih => exact ih _

theorem pushAll_sp (s : State) (values : List Byte) :
    (s.pushAll values).sp = s.sp - BitVec.ofNat 8 values.length := by
  induction values generalizing s with
  | nil => exact (sub_zero s.sp).symm
  | cons v rest ih =>
    rw [pushAll, ih, push_sp, sub_sub, ← BitVec.ofNat_add, List.length_cons, Nat.add_comm]

theorem pulledAll_sp (s : State) (n : Nat) : (s.pulledAll n).sp = s.sp + BitVec.ofNat 8 n := by
  induction n generalizing s with
  | zero => exact (add_zero s.sp).symm
  | succ n ih => rw [pulledAll, ih, pulled_sp, add_assoc, ← BitVec.ofNat_add, Nat.add_comm]

/-- `n` pulls read the `n` bytes above the one SP names. -/
theorem pullAll_congr {s t : State} {n : Nat} (hsp : s.sp = t.sp)
    (hread : ∀ k, k < n → s.readByte (word Config.stackPage (s.sp + BitVec.ofNat 8 (k + 1))) =
      t.readByte (word Config.stackPage (s.sp + BitVec.ofNat 8 (k + 1)))) :
    s.pullAll n = t.pullAll n := by
  induction n generalizing s t with
  | zero => rfl
  | succ n ih =>
    have hfirst : s.pullValue = t.pullValue := by
      rw [pullValue_eq, pullValue_eq, ← hsp]
      exact hread 0 (Nat.succ_pos n)
    have hrest : s.pulled.pullAll n = t.pulled.pullAll n := by
      refine ih (congrArg (· + 1#8) hsp) fun k hk => ?_
      have h := hread (k + 1) (Nat.succ_lt_succ hk)
      rwa [Nat.add_comm (k + 1), BitVec.ofNat_add, ← add_assoc] at h
    rw [pullAll, pullAll, hfirst, hrest]

/-- The last byte pushed is pulled first, and the pulls after it do not come back to its place. -/
theorem pullAll_pushAll (s : State) (values : List Byte) (h : values.length ≤ 256) :
    (s.pushAll values).pullAll values.length = values.reverse := by
  induction values using List.reverseRecOn with
  | nil => rfl
  | append_singleton values v ih =>
    rw [List.length_append, List.length_singleton] at h ⊢
    have hrest : ((s.pushAll values).push v).pulled.pullAll values.length =
        (s.pushAll values).pullAll values.length := by
      refine pullAll_congr (pulled_push_sp _ v) fun k hk => ?_
      have hne : (s.pushAll values).stackAddr ≠
          word Config.stackPage ((s.pushAll values).sp + BitVec.ofNat 8 (k + 1)) := by
        have hk0 : BitVec.ofNat 8 (k + 1) ≠ BitVec.ofNat 8 0 :=
          fun he => Nat.succ_ne_zero k ((ofNat_byte_inj (by omega) (by omega)).mp he)
        simpa [stackAddr, word_inj] using hk0
      rw [pulled_push_sp, readByte_pulled, readByte_push, if_neg hne]
    rw [pushAll_concat, pullAll, pullValue_push, hrest, ih (by omega), List.reverse_concat]

end State

/-- Settles O30: the values by induction on the pushes, SP by its sum of 1s. -/
theorem pullsReversePushes : Obligations.PullsReversePushes := by
  unfold Obligations.PullsReversePushes
  intro s values h
  refine ⟨s.pullAll_pushAll values h, ?sp⟩
  case sp => rw [State.pulledAll_sp, State.pushAll_sp, sub_add_cancel]

end Sys2Proof.Machine
end

section
/-! PROOF. What an instruction writes (10_state.md R10, R11, R13; 20_memory.md R37): memory at its stored
addresses, and each register and flag for the listed instructions only. -/

namespace Sys2Proof.Machine

theorem nextState_of_exec {i : Instr} {s t : State} (h : exec i s = .next t) : nextState i s = t :=
  (eq_nextState h).symm

/-! ## Memory -/

/-- An instruction's effect on memory is a sequence of byte writes at its stored addresses. -/
theorem nextState_mem (i : Instr) (s : State) :
    ∃ values, (nextState i s).mem = (s.writeAll ((i.storedAddrs s).zip values)).mem := by
  cases i with
  | sta _ | stx _ | sty _ | inc _ | dec _ => exact ⟨[_], rfl⟩
  | asl t | lsr t | rol t | ror t =>
    cases t with
    | accumulator => exact ⟨[], rfl⟩
    | memory m => exact ⟨[_], rfl⟩
  | pha => rw [nextState_of_exec (exec_pha_eq s)]; exact ⟨[_], rfl⟩
  | php => rw [nextState_of_exec (exec_php_eq s)]; exact ⟨[_], rfl⟩
  | jsr target => rw [nextState_of_exec (exec_jsr_eq target s)]; exact ⟨[_, _], rfl⟩
  | brk =>
    rw [nextState_of_exec (exec_brk_eq s), State.setPc_mem, State.setFlags_mem, State.setSp_mem]
    exact ⟨[_, _, _], rfl⟩
  | bpl _ | bmi _ | bvc _ | bvs _ | bcc _ | bcs _ | bne _ | beq _ => exact ⟨[], branch_mem _ _ _⟩
  | _ => exact ⟨[], rfl⟩

/-- Settles O14: a write is at a stored address, so every other byte is kept. -/
theorem memoryFrame : Obligations.MemoryFrame := by
  unfold Obligations.MemoryFrame
  intro i s t h a ha
  obtain rfl := eq_nextState h
  obtain ⟨values, hmem⟩ := nextState_mem i s
  rw [State.readByte_congr hmem]
  refine State.readByte_writeAll_of_not_mem s fun w hw he => ha ?_
  exact he ▸ (List.of_mem_zip hw).1

/-- Settles O8: byte writes keep the canonical form. -/
theorem stepKeepsInvariant : Obligations.StepKeepsInvariant := by
  unfold Obligations.StepKeepsInvariant State.Inv
  intro s t hs h
  obtain rfl := eq_nextState h
  obtain ⟨values, hmem⟩ := nextState_mem (fetchInstr s) s
  rw [hmem]
  exact State.writeAll_wf _ hs

/-! ## Registers and flags -/

/-- Settles O12, for the instructions in groups that write the same registers. -/
theorem registerFrame : Obligations.RegisterFrame := by
  unfold Obligations.RegisterFrame
  intro i s t h
  obtain rfl := eq_nextState h
  cases i with
  | adc _ | sbc _ | and _ | ora _ | eor _ | lda _ | txa | tya =>
    exact ⟨nofun, fun _ => rfl, fun _ => rfl, fun _ => rfl⟩
  | ldx _ | tax | tsx | inx | dex => exact ⟨fun _ => rfl, nofun, fun _ => rfl, fun _ => rfl⟩
  | ldy _ | tay | iny | dey => exact ⟨fun _ => rfl, fun _ => rfl, nofun, fun _ => rfl⟩
  | txs | pha | php | plp | rts => exact ⟨fun _ => rfl, fun _ => rfl, fun _ => rfl, nofun⟩
  | pla | jsr _ | brk | rti =>
    simp [nextState, State.takeTrap_frame, State.returnFromTrap_frame, Instr.mayWriteA, Instr.mayWriteSp]
  | asl t | lsr t | rol t | ror t =>
    cases t with
    | accumulator => exact ⟨nofun, fun _ => rfl, fun _ => rfl, fun _ => rfl⟩
    | memory _ => exact ⟨fun _ => rfl, fun _ => rfl, fun _ => rfl, fun _ => rfl⟩
  | bpl _ | bmi _ | bvc _ | bvs _ | bcc _ | bcs _ | bne _ | beq _ =>
    simp [nextState]
  | _ => exact ⟨fun _ => rfl, fun _ => rfl, fun _ => rfl, fun _ => rfl⟩

/-- Settles O13, for the instructions in groups that write the same flags. -/
theorem flagFrame : Obligations.FlagFrame := by
  unfold Obligations.FlagFrame
  intro i s t h
  obtain rfl := eq_nextState h
  cases i with
  | adc _ | sbc _ =>
    exact ⟨nofun, nofun, fun _ => rfl, fun _ => rfl, fun _ => rfl, fun _ => rfl, nofun⟩
  | cmp _ | cpx _ | cpy _ | asl _ | lsr _ | rol _ | ror _ =>
    exact ⟨nofun, nofun, fun _ => rfl, fun _ => rfl, fun _ => rfl, fun _ => rfl, fun _ => rfl⟩
  | bit _ => exact ⟨fun _ => rfl, nofun, fun _ => rfl, fun _ => rfl, fun _ => rfl, fun _ => rfl, nofun⟩
  | and _ | ora _ | eor _ | inc _ | dec _ | inx | iny | dex | dey | lda _ | ldx _ | ldy _ | pla
  | tax | tay | txa | tya | tsx | txs =>
    exact ⟨fun _ => rfl, nofun, fun _ => rfl, fun _ => rfl, fun _ => rfl, fun _ => rfl, fun _ => rfl⟩
  | clc | sec =>
    exact ⟨nofun, fun _ => ⟨rfl, rfl⟩, fun _ => rfl, fun _ => rfl, fun _ => rfl, fun _ => rfl, fun _ => rfl⟩
  | cli | sei =>
    exact ⟨fun _ => rfl, fun _ => ⟨rfl, rfl⟩, nofun, fun _ => rfl, fun _ => rfl, fun _ => rfl, fun _ => rfl⟩
  | cld | sed =>
    exact ⟨fun _ => rfl, fun _ => ⟨rfl, rfl⟩, fun _ => rfl, nofun, fun _ => rfl, fun _ => rfl, fun _ => rfl⟩
  | clv =>
    exact ⟨fun _ => rfl, fun _ => ⟨rfl, rfl⟩, fun _ => rfl, fun _ => rfl, fun _ => rfl, fun _ => rfl, nofun⟩
  | plp | rti => exact ⟨nofun, nofun, nofun, nofun, nofun, nofun, nofun⟩
  | brk =>
    obtain ⟨-, -, -, -, hflags⟩ := (s.advance 2).takeTrap_frame (s.advance 2).pc Config.brkVector
    rw [nextState_of_exec (exec_brk s), hflags]
    exact ⟨fun _ => rfl, fun _ => ⟨rfl, rfl⟩, nofun, fun _ => rfl, nofun, fun _ => rfl, fun _ => rfl⟩
  | bpl _ | bmi _ | bvc _ | bvs _ | bcc _ | bcs _ | bne _ | beq _ => simp [nextState]
  | jsr _ => simp [nextState]
  | jmp _ | rts | pha | php | sta _ | stx _ | sty _ | nop | undocumented _ =>
    exact ⟨fun _ => rfl, fun _ => ⟨rfl, rfl⟩, fun _ => rfl, fun _ => rfl, fun _ => rfl, fun _ => rfl,
      fun _ => rfl⟩

/-- Settles O15: R13's lists for U and B name three instructions; each of them ends with a fixed value of
the flag, but PLP with a pulled one for B. -/
theorem unusedAndBreakFlagWriters : Obligations.UnusedAndBreakFlagWriters := by
  unfold Obligations.UnusedAndBreakFlagWriters
  intro i s t h
  obtain ⟨-, -, -, -, hb, hu, -⟩ := flagFrame i s t h
  obtain rfl := eq_nextState h
  cases i with
  | plp => simp [nextState]
  | rti => simp [nextState, State.returnFromTrap_eq]
  | brk => simp [nextState, State.takeTrap_frame]
  | _ => simp [hb rfl, hu rfl]

/-! ## PC -/

theorem length_of_sourceBytes {i : Instr} {src : Source} (h : i.operandBytes = src.bytes) :
    i.length = 1 + sourceSize src := by
  rw [Instr.length, h, length_sourceBytes, Nat.add_comm]

theorem length_of_shiftBytes {i : Instr} {t : ShiftOperand} (h : i.operandBytes = t.bytes) :
    i.length = 1 + shiftSize t := by
  rw [Instr.length, h, length_shiftBytes, Nat.add_comm]

/-- Outside the control transfers PC moves by the instruction's length (10_state.md R11). -/
theorem nextState_pc {i : Instr} (s : State) (h : i.transfersControl = false) :
    (nextState i s).pc = s.pc + BitVec.ofNat 16 i.length := by
  cases i with
  | bpl _ | bmi _ | bvc _ | bvs _ | bcc _ | bcs _ | bne _ | beq _ => cases h
  | jmp _ | jsr _ | rts | brk | rti => cases h
  | adc src | sbc src | and src | ora src | eor src | cmp src | cpx src | cpy src
  | lda src | ldx src | ldy src => rw [length_of_sourceBytes rfl]; rfl
  | bit m | inc m | dec m | sta m | stx m | sty m => rw [length_of_memOperand rfl]; rfl
  | asl t | lsr t | rol t | ror t => rw [length_of_shiftBytes rfl]; exact finishShift_pc _ _ _ _
  | _ => rfl

/-- Settles O11: the move of PC in exact integers. -/
theorem pcMovesPastInstruction : Obligations.PcMovesPastInstruction := by
  unfold Obligations.PcMovesPastInstruction
  intro i s t hi h
  obtain rfl := eq_nextState h
  rw [nextState_pc s hi, BitVec.toNat_add, BitVec.toNat_ofNat, Nat.add_mod_mod]

end Sys2Proof.Machine
end

section
/-! PROOF. Runs of steps (70_reset_and_hazards.md R150, R151): exec_n, what it keeps, parked states, and a
store into the next instruction (20_memory.md R44). -/

namespace Sys2Proof.Machine

/-! ## exec_n -/

theorem step_completes (s : State) : ∃ t, step s = .next t := exec_completes (fetchInstr s) s

theorem hostExecN_completes (s : State) (k : Nat) : ∃ t, hostExecN k s = .next t := by
  induction k generalizing s with
  | zero => exact ⟨s, rfl⟩
  | succ k ih =>
    obtain ⟨t, ht⟩ := step_completes s
    rw [hostExecN_succ k ht]
    exact ih t

theorem hostExecN_add {s t : State} {j : Nat} (k : Nat) (h : hostExecN j s = .next t) :
    hostExecN (j + k) s = hostExecN k t := by
  induction j generalizing s with
  | zero =>
    obtain rfl := Host.Outcome.next.inj h
    rw [Nat.zero_add]
  | succ j ih =>
    obtain ⟨u, hu⟩ := step_completes s
    rw [hostExecN_succ j hu] at h
    rw [Nat.add_right_comm, hostExecN_succ _ hu, ih h]

/-- Settles O21: every step answers a next state, so no run ends before its count. -/
theorem execNRunsExactlyNSteps : Obligations.ExecNRunsExactlyNSteps := by
  unfold Obligations.ExecNRunsExactlyNSteps
  intro s j k
  obtain ⟨t, ht⟩ := hostExecN_completes s j
  obtain ⟨u, hu⟩ := step_completes s
  refine ⟨hostExecN_zero s, ?one, t, ht, hostExecN_add k ht⟩
  case one => rw [hostExecN_succ 0 hu, hostExecN_zero, hu]

/-! ## The invariant along runs and host operations -/

theorem hostExecN_inv {s t : State} {k : Nat} (hs : s.Inv) (h : hostExecN k s = .next t) : t.Inv := by
  induction k generalizing s with
  | zero =>
    obtain rfl := Host.Outcome.next.inj h
    exact hs
  | succ k ih =>
    obtain ⟨u, hu⟩ := step_completes s
    rw [hostExecN_succ k hu] at h
    exact ih (stepKeepsInvariant s u hs hu) h

/-- Settles O10: the operations that store are byte writes, the others keep memory, and a run is steps. -/
theorem hostOperationsKeepInvariant : Obligations.HostOperationsKeepInvariant := by
  unfold Obligations.HostOperationsKeepInvariant
  intro s hs
  refine ⟨?write, ?write16, ?load, fun _ => hs, ?field, fun _ => hs, fun _ _ => hostExecN_inv hs⟩
  case write => exact fun a v => State.writeByte_wf a v hs
  case write16 => exact fun a v => State.writeByte_wf _ _ (State.writeByte_wf a _ hs)
  case load => exact fun bytes base => State.loadProgram_wf bytes base hs
  case field =>
    intro f v
    rw [State.Inv, hostSetField_mem]
    exact hs

/-! ## Parked states -/

theorem exec_of_displacement {i : Instr} {d : Byte} (s : State) (h : i.displacement = some d) :
    exec i s = .next (branch (i.branchTaken s.flags) d (s.advance 2)) := by
  cases i with
  | bpl _ | bmi _ | bvc _ | bvs _ | bcc _ | bcs _ | bne _ | beq _ => cases h; rfl
  | _ => cases h

/-- Displacement 0xFE is -2: it leads back over the branch (70_reset_and_hazards.md R151). -/
theorem branch_back (s : State) : branch true 0xFE#8 (s.advance 2) = s := by
  have hpc : s.pc + 2#16 + sext16 0xFE#8 = s.pc := by
    rw [add_assoc]
    exact add_zero s.pc
  rw [branch_eq]
  exact congrArg s.setPc hpc

theorem step_of_parked {s : State} (h : Parked s) : step s = .next s := by
  obtain hjump | ⟨hdisp, htaken⟩ := h
  · rw [step_eq, hjump, exec_jmp]
    rfl
  · rw [step_eq, exec_of_displacement s hdisp, htaken, branch_back]

/-- Settles O20: a step that returns the same state can be repeated. -/
theorem parkedStatesStay : Obligations.ParkedStatesStay := by
  unfold Obligations.ParkedStatesStay
  intro s hs
  have hstep := step_of_parked hs
  refine ⟨hstep, fun k => ?_⟩
  induction k with
  | zero => exact hostExecN_zero s
  | succ k ih => rw [hostExecN_succ k hstep, ih]

/-! ## A store over the next opcode -/

/-- Settles O19: the next fetch is at the stored byte, and the two bytes after it are not written. -/
theorem storedOpcodeIsFetchedNext : Obligations.StoredOpcodeIsFetchedNext := by
  unfold Obligations.StoredOpcodeIsFetchedNext
  intro s t h
  have ht : t = (s.writeByte (s.pc + 3#16) s.a).advance 3 := eq_nextState h
  have hpc1 : s.pc + 3#16 + 1#16 = s.pc + 4#16 := add_assoc s.pc 3#16 1#16
  have hpc2 : s.pc + 3#16 + 2#16 = s.pc + 5#16 := add_assoc s.pc 3#16 2#16
  have hother (k : Word) (hk : s.pc + 3#16 ≠ k) : t.readByte k = s.readByte k := by
    rw [ht, State.readByte_advance, State.readByte_writeByte_other s s.a hk]
  have hopcode : t.readByte (s.pc + 3#16) = s.a := by
    rw [ht, State.readByte_advance, State.readByte_writeByte_same]
  have hpc : t.pc = s.pc + 3#16 := by rw [ht]; rfl
  rw [step_eq, fetchInstr, hpc, hpc1, hpc2, hopcode, hother _ (by simp), hother _ (by simp)]

end Sys2Proof.Machine
end

section
/-! PROOF. Add and subtract (41_arith_logical.md R70, R71) in exact integers. -/

namespace Sys2Proof.Machine

/-! ## ADC's computations on an operand and on its one's complement -/

theorem addResult_eq_ofNat (a m : Byte) (c : Bool) :
    addResult a m c = BitVec.ofNat 8 ((a.toNat + m.toNat + c.toNat) % 256) :=
  BitVec.eq_of_toNat_eq (by simp [addResult, addExact])

theorem addOverflow_eq_decide (a m r : Byte) :
    addOverflow a m r = decide ((~~~(a ^^^ m) &&& (a ^^^ r)) &&& 0x80#8 ≠ 0#8) :=
  decide_not.symm

/-- The one's complement adds 255 - m, so a carry-in of C takes away m + (1 - C), modulo 256. -/
theorem addResult_not_eq_ofInt (a m : Byte) (c : Bool) :
    addResult a (~~~m) c = BitVec.ofInt 8 ((a.toNat : Int) - m.toNat - (1 - c.toNat)) := by
  apply BitVec.eq_of_toNat_eq
  have hm := m.isLt
  rw [addResult, addExact, BitVec.toNat_not, BitVec.toNat_ofNat, BitVec.toNat_ofInt]
  omega

/-- The carry out of the complemented add says that there was no borrow. -/
theorem addCarry_not_eq (a m : Byte) (c : Bool) :
    addCarry a (~~~m) c = decide (a.toNat ≥ m.toNat + (1 - c.toNat)) := by
  have hm := m.isLt
  have hc := c.toNat_le
  rw [addCarry, addExact, BitVec.toNat_not, decide_eq_decide]
  omega

theorem addOverflow_not_eq_decide (a m r : Byte) :
    addOverflow a (~~~m) r = decide ((a ^^^ m) &&& (a ^^^ r) &&& 0x80#8 ≠ 0#8) := by
  have hxor : ~~~(a ^^^ ~~~m) = a ^^^ m := by ext i; simp
  rw [addOverflow_eq_decide, hxor]

/-- Settles O35: ADC's computations are the statement's. -/
theorem adcResult : Obligations.AdcResult := by
  unfold Obligations.AdcResult
  intro src s
  simp only [← addResult_eq_ofNat, ← addOverflow_eq_decide]
  rw [length_of_sourceBytes rfl]
  exact exec_adc src s

/-- Settles O36: SBC is the add of the complement. -/
theorem sbcResult : Obligations.SbcResult := by
  unfold Obligations.SbcResult
  intro src s
  simp only [← addResult_not_eq_ofInt, ← addOverflow_not_eq_decide, ← addCarry_not_eq]
  rw [length_of_sourceBytes rfl]
  exact exec_sbc src s

/-! ## Overflow -/

theorem and_0x80_ne_zero (v : Byte) : (v &&& 0x80#8 != 0#8) = v.msb := by
  have h : v &&& 0x80#8 = if v.getLsbD 7 then 0x80#8 else 0#8 := BitVec.and_twoPow v 7
  rw [BitVec.msb_eq_getLsbD_last, h]
  cases v.getLsbD 7 <;> rfl

/-- The bit test compares three signs: the operands' are equal and the result's is another. -/
theorem addOverflow_eq_msb (a m r : Byte) :
    addOverflow a m r = ((a.msb == m.msb) && (a.msb != r.msb)) := by
  rw [addOverflow, and_0x80_ne_zero, BitVec.msb_and, BitVec.msb_not, BitVec.msb_xor, BitVec.msb_xor]
  cases a.msb <;> cases m.msb <;> rfl

theorem addOverflow_addResult (a m : Byte) (c : Bool) :
    addOverflow a m (addResult a m c) =
      decide (a.toInt + m.toInt + c.toNat < -128 ∨ 127 < a.toInt + m.toInt + c.toNat) := by
  have ha := a.isLt
  have hm := m.isLt
  have hc := c.toNat_le
  have hr : (addResult a m c).toNat = (a.toNat + m.toNat + c.toNat) % 256 := BitVec.toNat_ofNat _ _
  rw [addOverflow_eq_msb, Bool.eq_iff_iff]
  simp only [BitVec.msb_eq_decide, BitVec.toInt_eq_toNat_cond, hr, Bool.and_eq_true, beq_iff_eq,
    bne_iff_ne, decide_eq_true_eq, decide_eq_decide, ne_eq]
  omega

theorem byte_toInt_not (m : Byte) : (~~~m).toInt = -m.toInt - 1 := by
  have hm := m.isLt
  simp only [BitVec.toInt_eq_toNat_cond, BitVec.toNat_not]
  omega

/-- SBC's overflow is that of the add of `-m - 1`. -/
theorem addOverflow_addResult_not (a m : Byte) (c : Bool) :
    addOverflow a (~~~m) (addResult a (~~~m) c) =
      decide (a.toInt - m.toInt - (1 - c.toNat) < -128 ∨ 127 < a.toInt - m.toInt - (1 - c.toNat)) := by
  have hsum : a.toInt + (-m.toInt - 1) + c.toNat = a.toInt - m.toInt - (1 - c.toNat) := by omega
  rw [addOverflow_addResult, byte_toInt_not, hsum]

/-- Settles O37: V of the next state is the overflow test of the operand or of its complement. -/
theorem overflowIsSignedOverflow : Obligations.OverflowIsSignedOverflow := by
  unfold Obligations.OverflowIsSignedOverflow
  intro src s t
  refine ⟨?adc, ?sbc⟩
  case adc =>
    intro h
    obtain rfl := eq_nextState h
    exact addOverflow_addResult _ _ _
  case sbc =>
    intro h
    obtain rfl := eq_nextState h
    exact addOverflow_addResult_not _ _ _

end Sys2Proof.Machine
end

section
/-! PROOF. The other results as one update of the state each: logic and BIT (41_arith_logical.md R72 to
R75), shifts (42_shift_rotate.md R78 to R81), compares (43_compare_incdec.md R82), flags and transfers
(46_flags_transfer.md), loads and stores (48_load_store.md), no-ops (49_nop.md). -/

namespace Sys2Proof.Machine

/-! ## Logic and BIT -/

/-- Settles O38: the three share `A <- r; SetZN(r)`. -/
theorem logicalResults : Obligations.LogicalResults := by
  unfold Obligations.LogicalResults
  intro src s
  simp only [← Flags.setZN_eq_update]
  refine ⟨?and, ?ora, ?eor⟩ <;> (rw [length_of_sourceBytes rfl]; rfl)

/-- Settles O39: the meaning is one write of the flags. -/
theorem bitResult : Obligations.BitResult := by
  unfold Obligations.BitResult
  intro m s
  rw [length_of_memOperand rfl]
  exact exec_bit m s

/-! ## Shifts -/

theorem byte_bit7 (v : Byte) : v.getLsbD 7 = decide (v.toNat ≥ 128) :=
  (BitVec.msb_eq_getLsbD_last v).symm.trans (BitVec.msb_eq_decide v)

theorem byte_bit0 (v : Byte) : v.getLsbD 0 = decide (v.toNat % 2 = 1) := by
  rw [BitVec.getLsbD, Nat.testBit_zero]

theorem aslResult_eq_ofNat (v : Byte) : aslResult v = BitVec.ofNat 8 (2 * v.toNat % 256) :=
  BitVec.eq_of_toNat_eq (by simp [aslResult, Nat.shiftLeft_eq, Nat.mul_comm])

theorem lsrResult_eq_ofNat (v : Byte) : lsrResult v = BitVec.ofNat 8 (v.toNat / 2) := by
  have hv := v.isLt
  apply BitVec.eq_of_toNat_eq
  rw [lsrResult, BitVec.toNat_ushiftRight, BitVec.toNat_ofNat, Nat.shiftRight_eq_div_pow]
  omega

/-- A closed fact about the 256 bytes and the carry. -/
theorem rolResult_eq_ofNat (v : Byte) (c : Bool) :
    rolResult v c = BitVec.ofNat 8 (2 * v.toNat % 256 + c.toNat) := by
  revert v c
  decide

/-- A closed fact about the 256 bytes and the carry. -/
theorem rorResult_eq_ofNat (v : Byte) (c : Bool) :
    rorResult v c = BitVec.ofNat 8 (v.toNat / 2 + 128 * c.toNat) := by
  revert v c
  decide

/-- Settles O40: the results and the bits shifted out are the statement's numbers. -/
theorem accumulatorShiftResults : Obligations.AccumulatorShiftResults := by
  unfold Obligations.AccumulatorShiftResults
  intro s
  simp only [← aslResult_eq_ofNat, ← lsrResult_eq_ofNat, ← rolResult_eq_ofNat, ← rorResult_eq_ofNat,
    ← byte_bit7, ← byte_bit0]
  exact ⟨exec_asl .accumulator s, exec_lsr .accumulator s, exec_rol .accumulator s,
    exec_ror .accumulator s⟩

/-- Settles O41: as in the accumulator forms, with the store at the effective address of the state
before. -/
theorem memoryShiftResults : Obligations.MemoryShiftResults := by
  unfold Obligations.MemoryShiftResults
  intro m s
  simp only [← aslResult_eq_ofNat, ← lsrResult_eq_ofNat, ← rolResult_eq_ofNat, ← rorResult_eq_ofNat,
    ← byte_bit7, ← byte_bit0]
  refine ⟨?asl, ?lsr, ?rol, ?ror⟩ <;> (rw [length_of_memOperand rfl]; rfl)

/-! ## Compares -/

theorem Flags.afterCompare_eq_update (f : Flags) (reg m : Byte) :
    f.afterCompare reg m = { f with
      c := decide (reg.toNat ≥ m.toNat), z := decide (reg = m), n := (reg - m).getLsbD 7 } := by
  have hz : (reg - m == 0#8) = decide (reg = m) := by
    rw [beq_eq_decide, decide_eq_decide]
    exact sub_eq_zero
  rw [← hz]
  rfl

/-- Settles O42: `Compare(reg, m)` for three registers. -/
theorem compareResults : Obligations.CompareResults := by
  unfold Obligations.CompareResults
  intro src s
  simp only [← Flags.afterCompare_eq_update]
  refine ⟨?cmp, ?cpx, ?cpy⟩ <;> (rw [length_of_sourceBytes rfl]; rfl)

/-! ## Flags, transfers, loads, stores and no-ops -/

/-- Settles O52: each meaning is the statement's update. -/
theorem flagInstructionResults : Obligations.FlagInstructionResults := by
  unfold Obligations.FlagInstructionResults
  intro s
  exact ⟨exec_clc s, exec_sec s, exec_cli s, exec_sei s, exec_cld s, exec_sed s, exec_clv s⟩

/-- Settles O53: each meaning is the statement's update. -/
theorem transferResults : Obligations.TransferResults := by
  unfold Obligations.TransferResults
  intro s
  exact ⟨exec_tax s, exec_tay s, exec_txa s, exec_tya s, exec_tsx s, exec_txs s⟩

/-- Settles O57: the three share the load of the operand and its length. -/
theorem loadResults : Obligations.LoadResults := by
  unfold Obligations.LoadResults
  intro src s
  simp only [← Flags.setZN_eq_update]
  refine ⟨?lda, ?ldx, ?ldy⟩ <;> (rw [length_of_sourceBytes rfl]; rfl)

/-- Settles O58: the three share the store at the effective address of the state before. -/
theorem storeResults : Obligations.StoreResults := by
  unfold Obligations.StoreResults
  intro m s
  dsimp only
  refine ⟨?sta, ?stx, ?sty⟩ <;> (rw [length_of_memOperand rfl]; rfl)

/-- Settles O59: each meaning is the move of PC. -/
theorem noOpResults : Obligations.NoOpResults := by
  unfold Obligations.NoOpResults
  intro op s
  exact ⟨exec_nop s, exec_undocumented op s⟩

end Sys2Proof.Machine
end

section
/-! PROOF. Noninterference (10_state.md R13, R14): U, B, D and I are the control flags. No meaning reads
them but the pushes of the status byte, so an edit of them before a step is an edit of them after it. -/

namespace Sys2Proof.Machine

/-- The flags with the four control flags of `g`. -/
def Flags.withControl (f g : Flags) : Flags := { f with u := g.u, b := g.b, d := g.d, i := g.i }

/-- The state with the four control flags of `g`. -/
def State.withControl (s : State) (g : Flags) : State := s.setFlags (s.flags.withControl g)

/-- The control flags an instruction leaves when those before it are the ones of `g`: it assigns some of
them, or pulls all of them from the stack, or keeps them. -/
def controlAfter (i : Instr) (s : State) (g : Flags) : Flags :=
  match i with
  | .sei => { g with i := true }
  | .cli => { g with i := false }
  | .sed => { g with d := true }
  | .cld => { g with d := false }
  | .plp | .rti => (nextState i s).flags
  | _ => g

theorem branch_withControl (cond : Bool) (d : Byte) (s : State) (g : Flags) :
    branch cond d (s.withControl g) = (branch cond d s).withControl g := by
  cases cond <;> rfl

/-- No meaning but PHP's and BRK's reads a control flag: operands, addresses, results and conditions are
the same terms in both states. -/
theorem nextState_withControl {i : Instr} (hphp : i ≠ .php) (hbrk : i ≠ .brk) (s : State) (g : Flags) :
    nextState i (s.withControl g) = (nextState i s).withControl (controlAfter i s g) := by
  cases i with
  | php => exact absurd rfl hphp
  | brk => exact absurd rfl hbrk
  | asl t | lsr t | rol t | ror t => cases t <;> rfl
  | bpl _ | bmi _ | bvc _ | bvs _ | bcc _ | bcs _ | bne _ | beq _ =>
    exact branch_withControl _ _ (s.advance 2) g
  | _ => rfl

/-- An edit `e` of control flags before a step is the edit `e'` of them after it, if the instruction
turns the one into the other. -/
theorem nextState_edit {i : Instr} (hphp : i ≠ .php) (hbrk : i ≠ .brk) {s : State} {e e' : Flags → Flags}
    (he : s.flags.withControl (e s.flags) = e s.flags)
    (he' : ∀ f g : Flags, f.withControl (e' g) = e' (f.withControl g))
    (hafter : controlAfter i s (e s.flags) = e' (controlAfter i s s.flags)) :
    nextState i (s.setFlags (e s.flags)) = (nextState i s).setFlags (e' (nextState i s).flags) := by
  have hself : (nextState i s).flags.withControl (controlAfter i s s.flags) = (nextState i s).flags :=
    (congrArg State.flags (nextState_withControl hphp hbrk s s.flags)).symm
  have hedit := nextState_withControl hphp hbrk s (e s.flags)
  rw [State.withControl, he, hafter, State.withControl, he', hself] at hedit
  exact hedit

theorem controlAfter_edit_i (i : Instr) (s : State) (g : Flags) (x : Bool) :
    ∃ y, controlAfter i s { g with i := x } = { controlAfter i s g with i := y } := by
  cases i <;> exact ⟨_, rfl⟩

theorem controlAfter_edit_d (i : Instr) (s : State) (g : Flags) (x : Bool) :
    ∃ y, controlAfter i s { g with d := x } = { controlAfter i s g with d := y } := by
  cases i <;> exact ⟨_, rfl⟩

theorem controlAfter_edit_b_u (i : Instr) (s : State) (g : Flags) (x y : Bool) :
    ∃ x' y', controlAfter i s { g with b := x, u := y } = { controlAfter i s g with b := x', u := y' } := by
  cases i <;> exact ⟨_, _, rfl⟩

/-! ## The two pushes of the status byte -/

@[simp] theorem nextState_php_flags (s : State) : (nextState .php s).flags = s.flags := rfl

@[simp] theorem nextState_brk_flags (s : State) :
    (nextState .brk s).flags = { s.flags with i := true, b := false } := by
  rw [nextState_of_exec (exec_brk_eq s)]
  rfl

/-- Other flags show in the pushed byte alone. -/
theorem nextState_php_setFlags (s : State) (f : Flags) :
    nextState .php (s.setFlags f) =
      ((nextState .php s).setFlags f).writeByte (s.stackByteAddr 0) f.pushed := by
  rw [nextState_of_exec (exec_php_eq s), nextState_of_exec (exec_php_eq (s.setFlags f))]
  exact State.eq_of_fields rfl rfl rfl rfl rfl rfl (Memory.write_write _ _ _ _).symm

theorem nextState_php_setFlags_of_pushed {s : State} {f : Flags} (h : f.pushed = s.flags.pushed) :
    nextState .php (s.setFlags f) = (nextState .php s).setFlags f := by
  rw [nextState_of_exec (exec_php_eq s), nextState_of_exec (exec_php_eq (s.setFlags f)),
    State.setFlags_flags, h]
  rfl

theorem nextState_brk_setFlags (s : State) (f : Flags) :
    nextState .brk (s.setFlags f) =
      ((nextState .brk s).setFlags { f with i := true, b := false }).writeByte (s.stackByteAddr 2)
        ({ f with i := true } : Flags).pushed := by
  rw [nextState_of_exec (exec_brk_eq s), nextState_of_exec (exec_brk_eq (s.setFlags f))]
  exact State.eq_of_fields rfl rfl rfl rfl rfl rfl (Memory.write_write _ _ _ _).symm

theorem nextState_brk_setFlags_of_pushed {s : State} {f : Flags}
    (h : ({ f with i := true } : Flags).pushed = ({ s.flags with i := true } : Flags).pushed) :
    nextState .brk (s.setFlags f) = (nextState .brk s).setFlags { f with i := true, b := false } := by
  rw [nextState_of_exec (exec_brk_eq s), nextState_of_exec (exec_brk_eq (s.setFlags f)),
    State.setFlags_flags, h]
  rfl

/-! ## Edits of one flag -/

/-- BRK sets I before it pushes the status byte, so PHP alone is left out (47_interrupt.md R125). -/
theorem nextState_edit_i {i : Instr} (hphp : i ≠ .php) (s : State) (x : Bool) :
    ∃ y, nextState i (s.setFlags { s.flags with i := x }) =
      (nextState i s).setFlags { (nextState i s).flags with i := y } := by
  by_cases hbrk : i = .brk
  · subst hbrk
    rw [nextState_brk_setFlags_of_pushed (f := { s.flags with i := x }) rfl, nextState_brk_flags]
    exact ⟨true, rfl⟩
  · obtain ⟨y, hy⟩ := controlAfter_edit_i i s s.flags x
    exact ⟨y, nextState_edit hphp hbrk (e := fun f => { f with i := x })
      (e' := fun f => { f with i := y }) rfl (fun _ _ => rfl) hy⟩

theorem nextState_edit_d {i : Instr} (hphp : i ≠ .php) (hbrk : i ≠ .brk) (s : State) (x : Bool) :
    ∃ y, nextState i (s.setFlags { s.flags with d := x }) =
      (nextState i s).setFlags { (nextState i s).flags with d := y } := by
  obtain ⟨y, hy⟩ := controlAfter_edit_d i s s.flags x
  exact ⟨y, nextState_edit hphp hbrk (e := fun f => { f with d := x })
    (e' := fun f => { f with d := y }) rfl (fun _ _ => rfl) hy⟩

/-- Both pushes set B and U in the byte, so no instruction is left out (10_state.md R14). -/
theorem nextState_edit_b_u (i : Instr) (s : State) (x y : Bool) :
    ∃ x' y', nextState i (s.setFlags { s.flags with b := x, u := y }) =
      (nextState i s).setFlags { (nextState i s).flags with b := x', u := y' } := by
  by_cases hphp : i = .php
  · subst hphp
    rw [nextState_php_setFlags_of_pushed (Flags.pushed_b_u s.flags x y)]
    exact ⟨x, y, rfl⟩
  by_cases hbrk : i = .brk
  · subst hbrk
    rw [nextState_brk_setFlags_of_pushed (f := { s.flags with b := x, u := y })
      (Flags.pushed_b_u { s.flags with i := true } x y), nextState_brk_flags]
    exact ⟨false, y, rfl⟩
  · obtain ⟨x', y', hxy⟩ := controlAfter_edit_b_u i s s.flags x y
    exact ⟨x', y', nextState_edit hphp hbrk (e := fun f => { f with b := x, u := y })
      (e' := fun f => { f with b := x', u := y' }) rfl (fun _ _ => rfl) hxy⟩

/-! ## The step -/

/-- The fetch reads memory at PC and no flag. -/
theorem step_setFlags {i : Instr} {s t : State} {f : Flags} (hi : fetchInstr s = i)
    (h : nextState i (s.setFlags f) = t) : step (s.setFlags f) = .next t := by
  subst hi h
  exact exec_eq_next (fetchInstr s) (s.setFlags f)

/-- Settles O16: by the edits of I, and PHP's pushed byte. -/
theorem interruptDisableMasksNothing : Obligations.InterruptDisableMasksNothing := by
  unfold Obligations.InterruptDisableMasksNothing
  intro s x
  refine ⟨nextState (fetchInstr s) s, exec_eq_next _ s, fun hphp => ?other, fun hphp => ?php⟩
  case other =>
    obtain ⟨y, hy⟩ := nextState_edit_i hphp s x
    exact ⟨y, step_setFlags rfl hy⟩
  case php =>
    rw [hphp, nextState_php_flags]
    exact ⟨_, step_setFlags hphp (nextState_php_setFlags s { s.flags with i := x })⟩

/-- Settles O17: by the edits of D, and the two pushed bytes. -/
theorem decimalFlagIsInert : Obligations.DecimalFlagIsInert := by
  unfold Obligations.DecimalFlagIsInert
  intro s x
  refine ⟨nextState (fetchInstr s) s, exec_eq_next _ s, fun hphp hbrk => ?other, fun hphp => ?php,
    fun hbrk => ?brk⟩
  case other =>
    obtain ⟨y, hy⟩ := nextState_edit_d hphp hbrk s x
    exact ⟨y, step_setFlags rfl hy⟩
  case php =>
    rw [hphp, nextState_php_flags]
    exact ⟨_, step_setFlags hphp (nextState_php_setFlags s { s.flags with d := x })⟩
  case brk =>
    rw [hbrk, nextState_brk_flags]
    exact ⟨_, step_setFlags hbrk (nextState_brk_setFlags s { s.flags with d := x })⟩

/-- Settles O18: by the edits of B and U, with no instruction left out. -/
theorem breakAndUnusedNeverRead : Obligations.BreakAndUnusedNeverRead := by
  unfold Obligations.BreakAndUnusedNeverRead
  intro s x y
  obtain ⟨x', y', hxy⟩ := nextState_edit_b_u (fetchInstr s) s x y
  exact ⟨nextState (fetchInstr s) s, x', y', exec_eq_next _ s, step_setFlags rfl hxy⟩

end Sys2Proof.Machine
end
